-- ==== Sys2Proof/Word.lean ====
section
/-! DEFINITION. The word of the host port and the two field types of a command word. -/

namespace Sys2Proof

/-- The port's data word and the command word: 32 bits (20_memory.md R80, 30_encoding.md R110). -/
abbrev Word := BitVec 32

/-- A buffer field of a command word: an unsigned 4-bit number (30_encoding.md R114). -/
abbrev BufIx := BitVec 4

/-- A register that holds a length, a position or a level: 16 bits (10_state.md R40 to R43, R47 to R52). -/
abbrev Half := BitVec 16

end Sys2Proof
end

