-- ==== Sys2Proof/Config.lean ====
section
/-! DEFINITION. What an implementation of the block fixes: the parameters of 00_scope.md R2, which the
model takes as an argument, their reference values, and the free values the spec leaves open. -/

namespace Sys2Proof

/-- One 32-bit word of an array, as the host reads it (20_memory.md R83 to R85). -/
inductive ArrayWord where
  /-- Word `w` of SB[b] (20_memory.md R83). -/
  | sb (b w : Nat)
  /-- Word `q` of MATCHES (20_memory.md R85). -/
  | levels (q : Nat)
  /-- Word `w` of MASK[c] (20_memory.md R84). -/
  | mask (c : Bool) (w : Nat)
  /-- Word `w` of ROW[k] (20_memory.md R84). -/
  | row (k w : Nat)
  deriving DecidableEq, Repr

namespace Config

/-- Which 16 KiB slot of the host's address space holds the window of the reference configuration. The
spec leaves BASE open (00_scope.md R2, 92_eei_decisions.md D3), so nothing here says which (log 2). -/
opaque baseSlot : Nat

/-- Size of the register window in bytes: 16 KiB (20_memory.md R80). -/
abbrev WINDOW : Nat := 0x4000

end Config

/-- The implementation parameters of 00_scope.md R2 and the OPEN parameter ADDRESS_MAP of
20_memory.md R87: one block is built with one value of each (log 1). -/
structure Params where
  /-- NBUF, the number of sequence buffers. -/
  nbuf : Nat
  /-- BUF_BITS, the bits of a sequence buffer, the entries of MATCHES, the largest N and GLEN. -/
  bufBits : Nat
  /-- M_MAX, the largest pattern and combiner length. -/
  mMax : Nat
  /-- K_MAX, the largest error budget. -/
  kMax : Nat
  /-- DEG_MAX, the largest LFSR degree. -/
  degMax : Nat
  /-- BASE divided by 16 KiB. -/
  baseSlot : Nat
  /-- ADDRESS_MAP: which array word stands at which offset, read only where the formulas of R83 to R85
  do not fit the window. -/
  addressMap : List (Nat × ArrayWord)
  deriving DecidableEq, Repr

namespace Params

/-- BASE, the window's host byte address, 16 KiB aligned (00_scope.md R2, 20_memory.md R80). -/
def base (z : Params) : Nat := z.baseSlot * Config.WINDOW

/-- Bytes of one sequence buffer in the window (20_memory.md R83). -/
def bufBytes (z : Params) : Nat := z.bufBits / 8

/-- Bytes of one mask or row in the window (20_memory.md R84). -/
def rowBytes (z : Params) : Nat := z.mMax / 8

/-- The formulas of R83 to R85 fit the 16 KiB window without overlap: SB ends at 0x800 at most, MATCHES at
0x1000, MASK at 0x2000 and ROW at 0x4000 (20_memory.md R87). -/
abbrev formulasFit (z : Params) : Prop :=
  z.nbuf * z.bufBytes ≤ 0x400 ∧ 2 * z.bufBits ≤ 0x800 ∧ 2 * z.rowBytes ≤ 0x1000 ∧
    (z.kMax + 1) * z.rowBytes ≤ 0x2000

/-- The array word exists in a block of these sizes (20_memory.md R83 to R85). -/
abbrev hasWord (z : Params) (a : ArrayWord) : Prop :=
  match a with
  | .sb b w => b < z.nbuf ∧ w < z.bufBits / 32
  | .levels q => q < z.bufBits / 2
  | .mask _ w => w < z.mMax / 32
  | .row k w => k ≤ z.kMax ∧ w < z.mMax / 32

/-- What 92_eei_decisions.md asks of ADDRESS_MAP: words of existing arrays at aligned offsets of the
window above the registers, no two at one offset. DESIGN CHOICE, safe (log 20): nothing more is asked, so
a map may omit an array word, which the host then cannot reach, or place one at two offsets. -/
def mapOk (z : Params) : Prop :=
  (∀ e ∈ z.addressMap, 0x054 ≤ e.1 ∧ e.1 < Config.WINDOW ∧ e.1 % 4 = 0 ∧ z.hasWord e.2) ∧
    (z.addressMap.map Prod.fst).Nodup

/-- The constraints of 00_scope.md R2, and of ADDRESS_MAP. -/
def ok (z : Params) : Prop :=
  (1 ≤ z.nbuf ∧ z.nbuf ≤ 8) ∧ (z.bufBits % 32 = 0 ∧ z.bufBits ≤ 32768) ∧
    (2 * z.mMax ≤ z.bufBits ∧ z.mMax % 32 = 0) ∧ z.kMax < z.mMax ∧
    (16 ≤ z.degMax ∧ z.degMax ≤ 32) ∧ z.mapOk

/-- The reference configuration (00_scope.md R2); its formulas fit, so its ADDRESS_MAP is not read. -/
def reference : Params where
  nbuf := 8
  bufBits := 1024
  mMax := 512
  kMax := 31
  degMax := 32
  baseSlot := Config.baseSlot
  addressMap := []

end Params

namespace Config

/-- FREE VALUE (10_state.md R70, 70_reset_and_hazards.md R282): bit i of SB[b] at draw `n`. Log 6. -/
opaque freeBit : (n b i : Nat) → Bool

/-- FREE VALUE (10_state.md R70, 70_reset_and_hazards.md R282): MASK[c] of width `w` at draw `n`. Log 6. -/
opaque freeMask : (w n : Nat) → (c : Bool) → BitVec w

/-- FREE VALUE (10_state.md R70, 70_reset_and_hazards.md R282): ROW[k] of width `w` at draw `n`. Log 6. -/
opaque freeRow : (w n k : Nat) → BitVec w

/-- FREE VALUE (10_state.md R70, 70_reset_and_hazards.md R282): MATCHES[p] at draw `n`. Log 6. -/
opaque freeLevel : (n p : Nat) → Half

end Config

end Sys2Proof
end

