-- ==== Sys2Proof/Syntax.lean ====
section
/-! DEFINITION. The commands of the block, one constructor per row of the opcode table, and the
command error codes by name. -/

namespace Sys2Proof

/-- The nine commands (30_encoding.md R112). A buffer operand is the 4-bit field as it stands in the
word; a symbol operand is the bit IMM[0] of the alphabet 0, 1 (30_encoding.md R115). -/
inductive Instr where
  /-- NOP: no operation (40_control.md R146). -/
  | nop
  /-- LLOAD: load the LFSR from DEG, CFG.PRESET, POLY and SEED (41_lfsr.md R162). -/
  | lload
  /-- LSTEP: one step of the loaded LFSR (41_lfsr.md R163). -/
  | lstep
  /-- LGEN sbD: load, then generate GLEN bits into SB[D] (41_lfsr.md R164). -/
  | lgen (d : BufIx)
  /-- LGENS sbD, #s: load, skip to the first s, then record GLEN bits (41_lfsr.md R165). -/
  | lgens (d : BufIx) (sym : Bool)
  /-- ENC sbD, sbA, sbB, sbC: ciphertext, clock, decimated, plaintext (42_combiner.md R191). -/
  | enc (d a b c : BufIx)
  /-- MINIT sbA: preprocess the pattern SB[A] (43_matcher.md R213). -/
  | minit (a : BufIx)
  /-- MSTEP #c: consume one text symbol (43_matcher.md R220). -/
  | mstep (c : Bool)
  /-- MATCH sbA, sbB: text SB[A] against pattern SB[B] (43_matcher.md R230). -/
  | matchText (a b : BufIx)
  deriving DecidableEq, Repr

/-- The command errors of 60_exceptions.md R250, in the order of their codes. -/
inductive CmdErr where
  | illegalOpcode
  | illegalField
  | badDegree
  | badPoly
  | badSeed
  | badLength
  | badK
  | notInit
  | matchesFull
  | skipExhausted
  deriving DecidableEq, Repr

end Sys2Proof
end

