-- ==== Sys2Proof/Machine/State.lean ====
section
/-! DEFINITION. The state of the block (10_state.md R30), the turns of the agents around it, the
answers of its port, the reasons a step could stop, and the state after a hard reset. -/

namespace Sys2Proof.Machine

/-- What a host access does: a read, or a write of a 32-bit value (20_memory.md R81). -/
inductive AccessKind where
  | read
  | write (v : Word)
  deriving DecidableEq, Repr

/-- One turn of an agent around the block (20_memory.md R91, 40_control.md R141; log 3). -/
inductive Turn where
  /-- The host accesses `size` bytes at host byte address `addr` (20_memory.md R80, R81). -/
  | access (addr size : Nat) (kind : AccessKind)
  /-- The command engine may move now: it completes the latched command if BUSY = 1 (40_control.md R141). -/
  | engine
  /-- The platform's reset input (70_reset_and_hazards.md R280). -/
  | hardReset
  deriving DecidableEq, Repr

/-- What the port answered to the last host access (20_memory.md R86; log 5). -/
inductive PortResponse where
  /-- No access since the hard reset. -/
  | noAccess
  /-- The address lies outside the window: the block does not answer (20_memory.md R80; log 10). -/
  | notDecoded
  /-- A read was performed and returned `v`. -/
  | readData (v : Word)
  /-- A write was performed. -/
  | writeDone
  /-- BusError on a read; the data returned is `v`, always 0 (20_memory.md R86). -/
  | readError (v : Word)
  /-- BusError on a write (20_memory.md R86). -/
  | writeError
  deriving DecidableEq, Repr

/-- The reasons a step ends in a fault. There is none: the block has no trap and no internal fault
(60_exceptions.md R255, R265), a command error is recorded in STATUS and the block goes on (R251), and
a refused host access is answered by the port (R259). The empty type says so: safe. -/
inductive Fault where
  deriving DecidableEq, Repr

/-- The reasons a step ends in a refusal. -/
inductive Refusal where
  /-- Raised only by an arm of `exec` whose command has no meaning yet; no arm is left so. Safe: the
  machine stops. -/
  | notModelled (mnemonic : String)
  deriving DecidableEq, Repr

/-- SB[b], BUF_BITS bits addressed LSB-first (10_state.md R55, 00_scope.md R5). -/
abbrev SeqBuf (z : Params) := Vector Bool z.bufBits

/-- A mask or an error row, M_MAX bits (10_state.md R56, R57). -/
abbrev Row (z : Params) := BitVec z.mMax

/-- ROW[0..K_MAX] (10_state.md R57). -/
abbrev Rows (z : Params) := Vector (Row z) (z.kMax + 1)

/-- MATCHES[0..BUF_BITS-1] (10_state.md R58). -/
abbrev Levels (z : Params) := Vector Half z.bufBits

/-- The complete architectural state of a block built with the parameters `z` (10_state.md R30,
00_scope.md R2), and three fields of the model's own at the end (log 3, 5, 6). Reserved register bits are
stored nowhere (10_state.md R53). -/
structure Block (z : Params) where
  /-- CMDLATCH (10_state.md R64). -/
  cmdLatch : Word
  /-- STATUS.BUSY (10_state.md R33). -/
  stBusy : Bool
  /-- STATUS.DONE (10_state.md R33). -/
  stDone : Bool
  /-- STATUS.ERR (10_state.md R33). -/
  stErr : Bool
  /-- STATUS.ANY (10_state.md R33). -/
  stAny : Bool
  /-- STATUS.OUT (10_state.md R33). -/
  stOut : Bool
  /-- STATUS.LV (10_state.md R33). -/
  stLv : Bool
  /-- STATUS.MV (10_state.md R33). -/
  stMv : Bool
  /-- STATUS.ERRCODE (10_state.md R33). -/
  errcode : BitVec 8
  /-- CTRL.IE (10_state.md R32). -/
  ie : Bool
  /-- CFG.SHIFT_OR (10_state.md R36). -/
  cfgShiftOr : Bool
  /-- CFG.ALLOW_INS (10_state.md R36). -/
  cfgAllowIns : Bool
  /-- CFG.PRESET (10_state.md R36). -/
  cfgPreset : Bool
  /-- DEG (10_state.md R37). -/
  deg : BitVec 6
  /-- POLY (10_state.md R38). -/
  poly : Word
  /-- SEED (10_state.md R39). -/
  seed : Word
  /-- GLEN (10_state.md R40). -/
  glen : Half
  /-- M (10_state.md R41). -/
  m : Half
  /-- N (10_state.md R42). -/
  n : Half
  /-- K (10_state.md R43). -/
  k : Half
  /-- S, the LFSR state, read at STATE (10_state.md R44, R59). -/
  lfsr : BitVec z.degMax
  /-- ADEG (10_state.md R45, R59). -/
  adeg : BitVec 6
  /-- APOLY (10_state.md R46, R59). -/
  apoly : BitVec z.degMax
  /-- AM (10_state.md R47, R62). -/
  am : Half
  /-- AK (10_state.md R48, R62). -/
  ak : Half
  /-- ASO (10_state.md R49, R62). -/
  aso : Bool
  /-- AINS (10_state.md R49, R62). -/
  ains : Bool
  /-- P, read at POS (10_state.md R50, R62). -/
  pos : Half
  /-- LASTLVL (10_state.md R51, R62). -/
  lastLvl : Half
  /-- MINLVL (10_state.md R52, R62). -/
  minLvl : Half
  /-- SB[0..NBUF-1] (10_state.md R55). -/
  sb : Vector (SeqBuf z) z.nbuf
  /-- MASK[0] (10_state.md R56). -/
  mask0 : Row z
  /-- MASK[1] (10_state.md R56). -/
  mask1 : Row z
  /-- ROW[0..K_MAX] (10_state.md R57). -/
  row : Rows z
  /-- MATCHES[0..BUF_BITS-1] (10_state.md R58). -/
  matchLvls : Levels z
  /-- The model's own: the turns still to come (log 3). -/
  inbox : List Turn
  /-- The model's own: the port's answer to the last host access (log 5). -/
  resp : PortResponse
  /-- The model's own: how many times free contents were drawn (log 6). -/
  draws : Nat
  deriving DecidableEq, Repr

/-- The machine: the parameters it was built with, which the model takes as an argument and no step
changes (00_scope.md R2; log 1), and the block of those sizes. -/
structure State where
  /-- The model's argument: the implementation parameters (00_scope.md R2). -/
  params : Params
  /-- The block's state (10_state.md R30). -/
  block : Block params
  deriving DecidableEq, Repr

/-- The vector of `f 0`, `f 1`, …, `f (n - 1)`. -/
def vecOf {α : Type} (n : Nat) (f : Nat → α) : Vector α n :=
  ⟨⟨(List.range n).map f⟩, by simp⟩

/-- The sequence buffers as draw `d` leaves them after a hard reset: free values (10_state.md R70; log 6). -/
def freeSb (z : Params) (d : Nat) : Vector (SeqBuf z) z.nbuf :=
  vecOf z.nbuf fun b => vecOf z.bufBits fun i => Config.freeBit d b i

/-- The error rows as draw `d` leaves them after a hard reset: free values (10_state.md R70; log 6). -/
def freeRows (z : Params) (d : Nat) : Rows z := vecOf (z.kMax + 1) fun k => Config.freeRow z.mMax d k

/-- MATCHES as draw `d` leaves it after a hard reset: free values (10_state.md R70; log 6). -/
def freeLevels (z : Params) (d : Nat) : Levels z := vecOf z.bufBits fun p => Config.freeLevel d p

/-- A block right after power-on: every register at its value in 10_state.md R69, the arrays
unspecified (10_state.md R70, 70_reset_and_hazards.md R280). -/
def Block.powerOn (z : Params) : Block z where
  cmdLatch := 0
  stBusy := false
  stDone := false
  stErr := false
  stAny := false
  stOut := false
  stLv := false
  stMv := false
  errcode := 0
  ie := false
  cfgShiftOr := false
  cfgAllowIns := false
  cfgPreset := false
  deg := 0
  poly := 0
  seed := 0
  glen := 0
  m := 0
  n := 0
  k := 0
  lfsr := 0
  adeg := 0
  apoly := 0
  am := 0
  ak := 0
  aso := false
  ains := false
  pos := 0
  lastLvl := 0
  minLvl := 0
  sb := freeSb z 0
  mask0 := Config.freeMask z.mMax 0 false
  mask1 := Config.freeMask z.mMax 0 true
  row := freeRows z 0
  matchLvls := freeLevels z 0
  inbox := []
  resp := .noAccess
  draws := 1

/-- The machine with the parameters `z` right after power-on (70_reset_and_hazards.md R280). -/
def State.powerOn (z : Params) : State := ⟨z, Block.powerOn z⟩

/-- The machine of the reference configuration right after power-on (00_scope.md R2). -/
def State.reset : State := State.powerOn Params.reference

end Sys2Proof.Machine
end

