-- ==== Sys2Proof/Machine/Bits.lean ====
section
/-! DEFINITION. The bit-vector primitives of 00_scope.md R6 to R9 and the packing of array bits into
port words (20_memory.md R83 to R85). -/

namespace Sys2Proof.Machine

/-- ONES(w), the mask 2^w - 1 (00_scope.md R6). -/
def ones (len w : Nat) : BitVec len := BitVec.ofNat len (2 ^ w - 1)

/-- not_w(v), the complement against ONES(w) (00_scope.md R6). -/
def notW {len : Nat} (w : Nat) (v : BitVec len) : BitVec len := v ^^^ ones len w

/-- shl_w(v) = (v * 2) mod 2^w, the windowed left shift with zero fill (00_scope.md R7). -/
def shlW {len : Nat} (w : Nat) (v : BitVec len) : BitVec len := (v <<< 1) &&& ones len w

/-- shl1_w(v) = shl_w(v) | 1, the windowed left shift with one fill (00_scope.md R8). -/
def shl1W {len : Nat} (w : Nat) (v : BitVec len) : BitVec len := shlW w v ||| 1

/-- parity(v), the XOR-sum of the bits of v (00_scope.md R9). -/
def parity {len : Nat} (v : BitVec len) : Bool :=
  (List.range len).foldl (fun acc i => acc ^^ v.getLsbD i) false

/-- The bit vector whose bit i is `f i` (00_scope.md R4: LSB-first). -/
def ofBits : (len : Nat) → (Nat → Bool) → BitVec len
  | 0, _ => 0
  | len + 1, f => BitVec.cons (f len) (ofBits len f)

/-- The 32-bit word w of an array whose bit i is `f i`: bit i of the array is bit (i mod 32) of word
(i div 32) (20_memory.md R83, R84). -/
def packWord (f : Nat → Bool) (w : Nat) : Word := ofBits 32 fun t => f (32 * w + t)

/-- Two 16-bit entries in one word, the first in bits [15:0] (20_memory.md R85). -/
def packHalves (lo hi : Half) : Word := hi ++ lo

end Sys2Proof.Machine
end

