-- ==== Sys2Proof/Machine/Flags.lean ====
section
/-! DEFINITION. The STATUS flags: the error codes, the STATUS and CTRL words, the W1C write and the
interrupt line. -/

namespace Sys2Proof.Machine

variable {z : Params}

/-- The code of a command error in STATUS.ERRCODE (60_exceptions.md R250). -/
def errCode : CmdErr → BitVec 8
  | .illegalOpcode => 0x01
  | .illegalField => 0x02
  | .badDegree => 0x03
  | .badPoly => 0x04
  | .badSeed => 0x05
  | .badLength => 0x06
  | .badK => 0x07
  | .notInit => 0x08
  | .matchesFull => 0x09
  | .skipExhausted => 0x0A

/-- The STATUS word a host reads: BUSY, DONE, ERR, ANY, OUT, LV, MV in bits 0 to 6, bit 7 zero,
ERRCODE in bits [15:8], the rest zero (10_state.md R33). -/
def Block.statusWord (s : Block z) : Word :=
  (ofBits 8 fun i =>
    match i with
    | 0 => s.stBusy
    | 1 => s.stDone
    | 2 => s.stErr
    | 3 => s.stAny
    | 4 => s.stOut
    | 5 => s.stLv
    | 6 => s.stMv
    | _ => false).setWidth 32 ||| s.errcode.setWidth 32 <<< 8

/-- A host write of `v` to STATUS: bit 1 clears DONE, bit 2 clears ERR and ERRCODE, nothing else acts
(10_state.md R34). -/
def Block.writeStatus (s : Block z) (v : Word) : Block z :=
  { s with
    stDone := s.stDone && !v.getLsbD 1
    stErr := s.stErr && !v.getLsbD 2
    errcode := if v.getLsbD 2 then 0 else s.errcode }

/-- The interrupt output IRQ = CTRL.IE & STATUS.DONE (60_exceptions.md R257). -/
def Block.irq (s : Block z) : Bool := s.ie && s.stDone

end Sys2Proof.Machine
end

