-- ==== Sys2Proof/Machine/Ops.lean ====
section
/-! DEFINITION. The named operations over the arrays and the command engine's registers: one bit of a
buffer, one row, one level, the issue of a command, recording a command error and completion. -/

namespace Sys2Proof.Machine

variable {z : Params}

/-- SB[b][i] (00_scope.md R10). A bit that does not exist reads 0; no command reads one (log 12). -/
def Block.sbBit (s : Block z) (b i : Nat) : Bool := (s.sb[b]?.bind fun v => v[i]?).getD false

/-- The buffers with bit i of buffer b set to `v`. A bit that does not exist is not written; no command
writes one (log 12). -/
def setBufBit (sb : Vector (SeqBuf z) z.nbuf) (b i : Nat) (v : Bool) : Vector (SeqBuf z) z.nbuf :=
  sb.setIfInBounds b ((sb[b]?.getD (vecOf _ fun _ => false)).setIfInBounds i v)

/-- SB[b][i] <- v (00_scope.md R10). -/
def Block.setSbBit (s : Block z) (b i : Nat) (v : Bool) : Block z :=
  { s with sb := setBufBit s.sb b i v }

/-- MASK[c] (10_state.md R56). -/
def Block.mask (s : Block z) (c : Bool) : Row z := if c then s.mask1 else s.mask0

/-- Row k of a bank of rows. A row that does not exist reads 0; no reachable state reads one (log 12). -/
def rowAt (r : Rows z) (k : Nat) : Row z := r[k]?.getD 0

/-- ROW[k] (10_state.md R57). -/
def Block.rowK (s : Block z) (k : Nat) : Row z := rowAt s.row k

/-- MATCHES[p] (10_state.md R58). An entry that does not exist reads 0; nothing reads one (log 12). -/
def Block.level (s : Block z) (p : Nat) : Half := s.matchLvls[p]?.getD 0

/-- MATCHES[p] <- v (10_state.md R58). An entry that does not exist is not written; no reachable state
writes one (log 12). -/
def Block.setLevel (s : Block z) (p : Nat) (v : Half) : Block z :=
  { s with matchLvls := s.matchLvls.setIfInBounds p v }

/-- Issue(v): latch the command, become busy, clear the previous outcome (40_control.md R140). -/
def Block.issue (s : Block z) (v : Word) : Block z :=
  { s with cmdLatch := v, stBusy := true, stDone := false, stErr := false, errcode := 0 }

/-- raise CmdError(e): the command ends, ERR is set and ERRCODE takes the code; nothing is saved and
control goes nowhere (60_exceptions.md R251, R255; 40_control.md R141). -/
def Block.cmdError (s : Block z) (e : CmdErr) : Block z :=
  { s with stErr := true, errcode := errCode e }

/-- The end of Complete(): BUSY <- 0 and DONE <- 1 (40_control.md R141). -/
def Block.finish (s : Block z) : Block z := { s with stBusy := false, stDone := true }

/-- The first check that fails, in the order of the list (60_exceptions.md R253). -/
def firstFailing : List (Bool × CmdErr) → Option CmdErr
  | [] => none
  | (fails, e) :: rest => if fails then some e else firstFailing rest

/-- Check, then execute: the first failing check raises its error and nothing else changes; only if
every check passes does the command have its effect (40_control.md R143). -/
def checked (checks : List (Bool × CmdErr)) (effect : Block z → Block z) (s : Block z) : Block z :=
  match firstFailing checks with
  | some e => s.cmdError e
  | none => effect s

/-- What a command or a turn does to the block is the machine's next state; the parameters stay
(00_scope.md R2). -/
def State.onBlock (s : State) (f : Block s.params → Block s.params) :
    Host.Outcome State Fault Refusal :=
  .next ⟨s.params, f s.block⟩

end Sys2Proof.Machine
end

