-- ==== Sys2Proof/WellFormed.lean ====
section
/-! DEFINITION. Which commands are well formed: every buffer operand names a buffer that exists. -/

namespace Sys2Proof

/-- A buffer field is legal when its value is below NBUF (30_encoding.md R114). -/
def bufOk (nbuf : Nat) (b : BufIx) : Bool := decide (b.toNat < nbuf)

/-- Every used buffer field of the command is below NBUF (30_encoding.md R113, R114). -/
def Instr.wellFormed (nbuf : Nat) : Instr → Bool
  | .nop => true
  | .lload => true
  | .lstep => true
  | .lgen d => bufOk nbuf d
  | .lgens d _ => bufOk nbuf d
  | .enc d a b c => bufOk nbuf d && bufOk nbuf a && bufOk nbuf b && bufOk nbuf c
  | .minit a => bufOk nbuf a
  | .mstep _ => true
  | .matchText a b => bufOk nbuf a && bufOk nbuf b

end Sys2Proof
end

