-- ==== Sys2Proof/Machine/Operands.lean ====
section
/-! DEFINITION. The operands of commands and the checks on them: buffer fields, the LFSR load's
degree, polynomial and seed, and the lengths M, N, K and GLEN. -/

namespace Sys2Proof.Machine

variable {z : Params}

/-- The check ILLEGAL_FIELD on the used buffer fields (30_encoding.md R114, R117). The decoder makes it
on the word; it stands here too because each command's list of checks begins with it (log 9). -/
def fieldCheck (z : Params) (bs : List BufIx) : Bool × CmdErr := (!bs.all (bufOk z.nbuf), .illegalField)

/-- The preset polynomial table (00_scope.md R3). -/
def presetPoly : Nat → Option (BitVec 32)
  | 11 => some 1209
  | 16 => some 33262
  | _ => none

/-- The degree is not legal: PRESET = 1 and no preset for DEG, or PRESET = 0 and DEG outside
1..DEG_MAX (41_lfsr.md R160). -/
def Block.badDegree (s : Block z) : Bool :=
  if s.cfgPreset then (presetPoly s.deg.toNat).isNone
  else decide (s.deg.toNat < 1 ∨ z.degMax < s.deg.toNat)

/-- PRESET = 0 and POLY >= 2^DEG; with PRESET = 1 POLY is not read (41_lfsr.md R160). -/
def Block.badPoly (s : Block z) : Bool :=
  !s.cfgPreset && decide (2 ^ s.deg.toNat ≤ s.poly.toNat)

/-- SEED >= 2^DEG (41_lfsr.md R160). -/
def Block.badSeed (s : Block z) : Bool := decide (2 ^ s.deg.toNat ≤ s.seed.toNat)

/-- The checks of LfsrLoadCheck, in order (41_lfsr.md R160). -/
def Block.loadChecks (s : Block z) : List (Bool × CmdErr) :=
  [(s.badDegree, .badDegree), (s.badPoly, .badPoly), (s.badSeed, .badSeed)]

/-- The polynomial LfsrLoadCheck returns: the preset's or POLY (41_lfsr.md R160). -/
def Block.effPoly (s : Block z) : BitVec 32 :=
  if s.cfgPreset then (presetPoly s.deg.toNat).getD 0 else s.poly

/-- GLEN < 1 or GLEN > BUF_BITS (41_lfsr.md R164, R165). -/
def Block.glenCheck (s : Block z) : Bool × CmdErr :=
  (decide (s.glen.toNat < 1 ∨ z.bufBits < s.glen.toNat), .badLength)

/-- M < 1 or M > M_MAX (42_combiner.md R191, 43_matcher.md R210). -/
def Block.mCheck (s : Block z) : Bool × CmdErr :=
  (decide (s.m.toNat < 1 ∨ z.mMax < s.m.toNat), .badLength)

/-- K >= M or K > K_MAX (43_matcher.md R210). -/
def Block.kCheck (s : Block z) : Bool × CmdErr :=
  (decide (s.m.toNat ≤ s.k.toNat ∨ z.kMax < s.k.toNat), .badK)

/-- N < 2*M or N > BUF_BITS (43_matcher.md R230, R231). -/
def Block.nCheck (s : Block z) : Bool × CmdErr :=
  (decide (s.n.toNat < 2 * s.m.toNat ∨ z.bufBits < s.n.toNat), .badLength)

end Sys2Proof.Machine
end

