-- ==== Sys2Proof/Machine/Combiner.lean ====
section
/-! DEFINITION. The combiner unit: ENC (42_combiner.md). -/

namespace Sys2Proof.Machine

variable {z : Params}

/-- `count` positions of ENC from position `i` with the decimation cursor at `j`, reading and writing
the buffers bit by bit in the order of the pseudocode (42_combiner.md R191, 40_control.md R145). -/
def encLoop (d a b c : Nat) : (i j count : Nat) → Block z → Block z
  | _, _, 0, s => s
  | i, j, count + 1, s =>
    let j' := if s.sbBit a i then j + 1 else j
    encLoop d a b c (i + 1) (j' + 1) count (s.setSbBit d i (s.sbBit b j' ^^ s.sbBit c i))

/-- ENC sbD, sbA, sbB, sbC: ciphertext D, clock A, decimated B, plaintext C (42_combiner.md R191). -/
def execEnc (d a b c : BufIx) (s : State) : Host.Outcome State Fault Refusal :=
  s.onBlock fun blk =>
    checked [fieldCheck s.params [d, a, b, c], blk.mCheck]
      (fun blk => encLoop d.toNat a.toNat b.toNat c.toNat 0 0 blk.m.toNat blk) blk

end Sys2Proof.Machine
end

