-- ==== Sys2Proof/Machine/Control.lean ====
section
/-! DEFINITION. The control command NOP (40_control.md section 3). -/

namespace Sys2Proof.Machine

/-- NOP does nothing; DONE is set by completion (40_control.md R146). -/
def execNop (s : State) : Host.Outcome State Fault Refusal := s.onBlock (checked [] id)

end Sys2Proof.Machine
end

