-- ==== Sys2Proof/Machine/Lfsr.lean ====
section
/-! DEFINITION. The LFSR unit: LLOAD, LSTEP, LGEN and LGENS (41_lfsr.md). -/

namespace Sys2Proof.Machine

variable {z : Params}

/-- The emitted bit of one step: S[deg-1], read before the shift (41_lfsr.md R161). -/
def lfsrOut {len : Nat} (deg : Nat) (st : BitVec len) : Bool := st.getLsbD (deg - 1)

/-- The state after one step: shifted left in the deg-bit window, bit 0 the parity of the tapped bits
of the state before the shift (41_lfsr.md R161). -/
def lfsrNext {len : Nat} (deg : Nat) (poly st : BitVec len) : BitVec len :=
  shlW deg st ||| if parity (st &&& poly) then 1 else 0

/-- LfsrStep(): S and STATUS.OUT change; the bit it returns is the new STATUS.OUT (41_lfsr.md R161). -/
def Block.lfsrStep (s : Block z) : Block z :=
  { s with
    lfsr := lfsrNext s.adeg.toNat s.apoly s.lfsr
    stOut := lfsrOut s.adeg.toNat s.lfsr }

/-- LfsrLoad(deg, poly): latch ADEG and APOLY, S <- SEED, LV <- 1 (41_lfsr.md R160). -/
def Block.lfsrLoad (s : Block z) : Block z :=
  { s with
    adeg := s.deg
    apoly := s.effPoly.setWidth z.degMax
    lfsr := s.seed.setWidth z.degMax
    stLv := true }

/-- `count` times SB[b][i] <- LfsrStep(), from index `i` on (the loops of 41_lfsr.md R164 and R165). -/
def lfsrRecord (b : Nat) : (i count : Nat) → Block z → Block z
  | _, 0, s => s
  | i, count + 1, s =>
    let t := s.lfsrStep
    lfsrRecord b (i + 1) count (t.setSbBit b i t.stOut)

/-- Step until the emitted bit is `sym`, at most `bound` times. With a bound of at least 1 the state it
ends in has OUT = sym exactly when the symbol came (the while loop of 41_lfsr.md R165). -/
def lfsrSkip (sym : Bool) : (bound : Nat) → Block z → Block z
  | 0, s => s
  | bound + 1, s =>
    let t := s.lfsrStep
    if t.stOut == sym then t else lfsrSkip sym bound t

/-- LLOAD (41_lfsr.md R162). -/
def execLload (s : State) : Host.Outcome State Fault Refusal :=
  s.onBlock fun b => checked b.loadChecks Block.lfsrLoad b

/-- LSTEP: NOT_INIT if LV = 0, else one step of the latched LFSR (41_lfsr.md R163). -/
def execLstep (s : State) : Host.Outcome State Fault Refusal :=
  s.onBlock fun b => checked [(!b.stLv, .notInit)] Block.lfsrStep b

/-- The checks of LGEN and LGENS, in order (41_lfsr.md R164, R165). -/
def lgenChecks (d : BufIx) (s : Block z) : List (Bool × CmdErr) :=
  fieldCheck z [d] :: s.loadChecks ++ [s.glenCheck]

/-- LGEN sbD: load, then record GLEN emitted bits (41_lfsr.md R164). -/
def execLgen (d : BufIx) (s : State) : Host.Outcome State Fault Refusal :=
  s.onBlock fun b => checked (lgenChecks d b) (fun b => lfsrRecord d.toNat 0 b.glen.toNat b.lfsrLoad) b

/-- The effect of LGENS after its checks: load, skip to the first `sym` within 2^ADEG steps, record it
as bit 0 and GLEN - 1 more; or SKIP_EXHAUSTED with the LFSR loaded and stepped (41_lfsr.md R165). -/
def lgensEffect (d : BufIx) (sym : Bool) (s : Block z) : Block z :=
  let t := lfsrSkip sym (2 ^ s.deg.toNat) s.lfsrLoad
  if t.stOut == sym then lfsrRecord d.toNat 1 (s.glen.toNat - 1) (t.setSbBit d.toNat 0 t.stOut)
  else t.cmdError .skipExhausted

/-- LGENS sbD, #s (41_lfsr.md R165). -/
def execLgens (d : BufIx) (sym : Bool) (s : State) : Host.Outcome State Fault Refusal :=
  s.onBlock fun b => checked (lgenChecks d b) (lgensEffect d sym) b

end Sys2Proof.Machine
end

