-- ==== Sys2Proof/Machine/Matcher.lean ====
section
/-! DEFINITION. The matcher unit: MINIT, MSTEP and MATCH (43_matcher.md). -/

namespace Sys2Proof.Machine

variable {z : Params}

/-- MASK[c] of the pattern whose bit j is `pat j`, of length `am`: bit j set when pat[j] = c, complemented
within `am` bits when `aso` (43_matcher.md R211). -/
def buildMask (pat : Nat → Bool) (am : Nat) (aso c : Bool) : Row z :=
  let b : Row z := ofBits z.mMax fun j => decide (j < am) && (pat j == c)
  if aso then notW am b else b

/-- The initial ROW[k]: bits [0, k) set, complemented within `am` bits when `aso` (43_matcher.md R212). -/
def initRow (am : Nat) (aso : Bool) (k : Nat) : Row z :=
  let r : Row z := ones z.mMax k
  if aso then notW am r else r

/-- BuildRows: ROW[0..ak] take their initial values, the rows above are not written (43_matcher.md R212). -/
def buildRows (am ak : Nat) (aso : Bool) (old : Rows z) : Rows z :=
  vecOf (z.kMax + 1) fun k => if k ≤ ak then initRow am aso k else rowAt old k

/-- MInit(A) for the pattern in buffer `b`: latch the parameters, build masks and rows, clear the
position and the results (43_matcher.md R213). -/
def Block.mInit (s : Block z) (b : Nat) : Block z :=
  { s with
    am := s.m
    ak := s.k
    aso := s.cfgShiftOr
    ains := s.cfgAllowIns
    mask0 := buildMask (s.sbBit b) s.m.toNat s.cfgShiftOr false
    mask1 := buildMask (s.sbBit b) s.m.toNat s.cfgShiftOr true
    row := buildRows s.m.toNat s.k.toNat s.cfgShiftOr s.row
    pos := 0
    stAny := false
    lastLvl := s.m
    minLvl := s.m
    stMv := true }

/-- Row 0 after one symbol: Shift-AND shifts with one-fill and ANDs the mask (43_matcher.md R221),
Shift-OR shifts with zero-fill and ORs it (R223). -/
def stepRow0 (am : Nat) (aso : Bool) (mask r : Row z) : Row z :=
  if aso then shlW am r ||| mask else shl1W am r &&& mask

/-- Row i >= 1 after one symbol, from the row below before (`old`) and after (`new`) this symbol: the
three terms of 43_matcher.md R221 (Shift-AND, one-fill by R222) and of R223 (Shift-OR). -/
def stepRowI (am : Nat) (aso ains : Bool) (mask old new r : Row z) : Row z :=
  if aso then
    (shlW am r ||| mask) &&& old &&& (if ains then shlW am (old &&& new) else ones z.mMax am)
  else
    (shl1W am r &&& mask) ||| old ||| (if ains then shl1W am (old ||| new) else 0)

/-- `count` rows from row `i` on, each from the row below before and after this symbol (the loops of
43_matcher.md R221 and R223). -/
def stepRowsFrom (f : Row z → Row z → Row z → Row z) : (i count : Nat) → (old new : Row z) → Rows z → Rows z
  | _, 0, _, _, r => r
  | i, count + 1, old, new, r =>
    let tmp := rowAt r i
    let upd := f old new tmp
    stepRowsFrom f (i + 1) count tmp upd (r.setIfInBounds i upd)

/-- UpdateAND(c) or UpdateOR(c): row 0, then rows 1..AK (43_matcher.md R221, R223). -/
def Block.updateRows (s : Block z) (c : Bool) : Block z :=
  let old := s.rowK 0
  let new := stepRow0 s.am.toNat s.aso (s.mask c) old
  { s with
    row := stepRowsFrom (stepRowI s.am.toNat s.aso s.ains (s.mask c)) 1 s.ak.toNat old new
      (s.row.setIfInBounds 0 new) }

/-- top(i): bit AM-1 of ROW[i] has the matched polarity (43_matcher.md R224). -/
def Block.top (s : Block z) (i : Nat) : Bool := (s.rowK i).getLsbD (s.am.toNat - 1) != s.aso

/-- The least i in `i`..`i + count` with top(i), or `i + count` where none below it has. -/
def Block.scanTop (s : Block z) : (i count : Nat) → Nat
  | i, 0 => i
  | i, count + 1 => if s.top i then i else s.scanTop (i + 1) count

/-- Level(): AM when row AK does not signal, else the least signalling row (43_matcher.md R224). -/
def Block.curLevel (s : Block z) : Half :=
  if s.top s.ak.toNat then BitVec.ofNat 16 (s.scanTop 0 s.ak.toNat) else s.am

/-- Record(lvl): MATCHES[P], LASTLVL, MINLVL, ANY and P (43_matcher.md R225). -/
def Block.recordLevel (s : Block z) (lvl : Half) : Block z :=
  { s.setLevel s.pos.toNat lvl with
    lastLvl := lvl
    minLvl := if lvl.toNat < s.minLvl.toNat then lvl else s.minLvl
    stAny := s.stAny || decide (lvl.toNat < s.am.toNat)
    pos := s.pos + 1 }

/-- MStepBody(c): update the rows, compute the level, record it (43_matcher.md R220). -/
def Block.mStepBody (s : Block z) (c : Bool) : Block z :=
  let t := s.updateRows c
  t.recordLevel t.curLevel

/-- `count` times MStepBody(SB[a][p]), from position `p` on (the loop of 43_matcher.md R230). -/
def matchLoop (a : Nat) : (p count : Nat) → Block z → Block z
  | _, 0, s => s
  | p, count + 1, s => matchLoop a (p + 1) count (s.mStepBody (s.sbBit a p))

/-- MINIT sbA (43_matcher.md R213). -/
def execMinit (a : BufIx) (s : State) : Host.Outcome State Fault Refusal :=
  s.onBlock fun b =>
    checked [fieldCheck s.params [a], b.mCheck, b.kCheck] (fun b => b.mInit a.toNat) b

/-- MSTEP #c: NOT_INIT if MV = 0, MATCHES_FULL if P >= BUF_BITS (43_matcher.md R220). -/
def execMstep (c : Bool) (s : State) : Host.Outcome State Fault Refusal :=
  s.onBlock fun b =>
    checked [(!b.stMv, .notInit), (decide (s.params.bufBits ≤ b.pos.toNat), .matchesFull)]
      (fun b => b.mStepBody c) b

/-- MATCH sbA, sbB: text A, pattern B (43_matcher.md R230). -/
def execMatch (a b : BufIx) (s : State) : Host.Outcome State Fault Refusal :=
  s.onBlock fun blk =>
    checked [fieldCheck s.params [a, b], blk.mCheck, blk.kCheck, blk.nCheck]
      (fun blk => matchLoop a.toNat 0 blk.n.toNat (blk.mInit b.toNat)) blk

end Sys2Proof.Machine
end

