-- ==== Sys2Proof/Machine/Dispatch.lean ====
section
/-! DEFINITION. Execute's case split over the decoded command (40_control.md R143). -/

namespace Sys2Proof.Machine

/-- The effect of one command on the state, its command error recorded; BUSY and DONE are the engine's
(40_control.md R143; log 8). -/
def exec (i : Instr) (s : State) : Host.Outcome State Fault Refusal :=
  match i with
  | .nop => Sys2Proof.Machine.execNop s
  | .lload => Sys2Proof.Machine.execLload s
  | .lstep => Sys2Proof.Machine.execLstep s
  | .lgen d => Sys2Proof.Machine.execLgen d s
  | .lgens d sym => Sys2Proof.Machine.execLgens d sym s
  | .enc d a b c => Sys2Proof.Machine.execEnc d a b c s
  | .minit a => Sys2Proof.Machine.execMinit a s
  | .mstep c => Sys2Proof.Machine.execMstep c s
  | .matchText a b => Sys2Proof.Machine.execMatch a b s

end Sys2Proof.Machine
end

