-- ==== Sys2Proof/Decode.lean ====
section
/-! DEFINITION. The decoder, total on all command words (30_encoding.md R118), the encoder of
30_encoding.md R119 after it, and the host's reading of a table word. -/

namespace Sys2Proof

/-- The names of the nine opcodes (30_encoding.md R112). -/
inductive Opcode where
  | nop | lload | lstep | lgen | lgens | enc | minit | mstep | matchText
  deriving DecidableEq, Repr

/-- The buffer fields of a command word (30_encoding.md R111). -/
inductive BufField where
  | d | a | b | c
  deriving DecidableEq, Repr

/-- OPC, bits [31:24] (30_encoding.md R111). -/
def fieldOpc (w : Word) : BitVec 8 := w.extractLsb' 24 8

/-- The lowest bit of a buffer field: D [23:20], A [19:16], B [15:12], C [11:8] (30_encoding.md R111). -/
def bufFieldLsb : BufField → Nat
  | .d => 20
  | .a => 16
  | .b => 12
  | .c => 8

/-- A buffer field of the command word (30_encoding.md R111). -/
def fieldBuf (w : Word) (f : BufField) : BufIx := w.extractLsb' (bufFieldLsb f) 4

/-- IMM[0], the symbol bit (30_encoding.md R115). -/
def fieldSym (w : Word) : Bool := w.getLsbD 0

/-- The opcode map (30_encoding.md R112). -/
def opcodeMap : List (BitVec 8 × Opcode) :=
  [(0x00, .nop), (0x10, .lload), (0x11, .lstep), (0x12, .lgen), (0x13, .lgens), (0x20, .enc),
   (0x30, .minit), (0x31, .mstep), (0x32, .matchText)]

/-- The MATCH column of 30_encoding.md R113. -/
def rowMatch : Opcode → Word
  | .nop => 0x00000000
  | .lload => 0x10000000
  | .lstep => 0x11000000
  | .lgen => 0x12000000
  | .lgens => 0x13000000
  | .enc => 0x20000000
  | .minit => 0x30000000
  | .mstep => 0x31000000
  | .matchText => 0x32000000

/-- The MASK column of 30_encoding.md R113. It is given there for NBUF = 8; for a smaller NBUF it is the
same check on the bits that no legal word sets, and the check on the used fields does the rest. -/
def rowMask : Opcode → Word
  | .nop => 0xFFFFFFFF
  | .lload => 0xFFFFFFFF
  | .lstep => 0xFFFFFFFF
  | .lgen => 0xFF8FFFFF
  | .lgens => 0xFF8FFFFE
  | .enc => 0xFF8888FF
  | .minit => 0xFFF8FFFF
  | .mstep => 0xFFFFFFFE
  | .matchText => 0xFFF88FFF

/-- The buffer fields an opcode uses (30_encoding.md R112). -/
def rowUsed : Opcode → List BufField
  | .nop => []
  | .lload => []
  | .lstep => []
  | .lgen => [.d]
  | .lgens => [.d]
  | .enc => [.d, .a, .b, .c]
  | .minit => [.a]
  | .mstep => []
  | .matchText => [.a, .b]

/-- The command an opcode and its word stand for (the last line of 30_encoding.md R118). -/
def instrOf (op : Opcode) (w : Word) : Instr :=
  match op with
  | .nop => .nop
  | .lload => .lload
  | .lstep => .lstep
  | .lgen => .lgen (fieldBuf w .d)
  | .lgens => .lgens (fieldBuf w .d) (fieldSym w)
  | .enc => .enc (fieldBuf w .d) (fieldBuf w .a) (fieldBuf w .b) (fieldBuf w .c)
  | .minit => .minit (fieldBuf w .a)
  | .mstep => .mstep (fieldSym w)
  | .matchText => .matchText (fieldBuf w .a) (fieldBuf w .b)

/-- Decode of 30_encoding.md R118 in a block of `nbuf` buffers: the opcode check, then the field check
(R116, R117). -/
def decode (nbuf : Nat) (w : Word) : Except CmdErr Instr :=
  match opcodeMap.lookup (fieldOpc w) with
  | none => .error .illegalOpcode
  | some op =>
    if w &&& rowMask op ≠ rowMatch op then .error .illegalField
    else if (rowUsed op).all (fun f => bufOk nbuf (fieldBuf w f)) then .ok (instrOf op w)
    else .error .illegalField

/-- A buffer operand at its place in the command word (30_encoding.md R111). -/
def placeBuf (f : BufField) (b : BufIx) : Word := b.setWidth 32 <<< bufFieldLsb f

/-- A symbol operand at IMM[0] (30_encoding.md R115). -/
def placeSym (s : Bool) : Word := if s then 1 else 0

/-- The word of a command (30_encoding.md R119). -/
def encode : Instr → Word
  | .nop => 0x00000000
  | .lload => 0x10000000
  | .lstep => 0x11000000
  | .lgen d => 0x12000000 ||| placeBuf .d d
  | .lgens d s => 0x13000000 ||| placeBuf .d d ||| placeSym s
  | .enc d a b c =>
    0x20000000 ||| placeBuf .d d ||| placeBuf .a a ||| placeBuf .b b ||| placeBuf .c c
  | .minit a => 0x30000000 ||| placeBuf .a a
  | .mstep c => 0x31000000 ||| placeSym c
  | .matchText a b => 0x32000000 ||| placeBuf .a a ||| placeBuf .b b

/-- The command word that stands in the `nbits` low bits of `w`, every higher bit 0: a command is one
32-bit word, taken whole (30_encoding.md R110, 20_memory.md R93). -/
def tableWord (nbits w : Nat) : Word := BitVec.ofNat 32 (w % 2 ^ nbits)

/-- The command the decoder of the reference configuration, which is the table's, reads from a table
word, none where it refuses. -/
def decodeTableWord (nbits w : Nat) : Option Instr :=
  match decode Params.reference.nbuf (tableWord nbits w) with
  | .ok i => some i
  | .error _ => none

end Sys2Proof
end

