-- ==== Sys2Proof/Machine/Reset.lean ====
section
/-! DEFINITION. Hard reset, soft reset and the write set of an abandoned command
(70_reset_and_hazards.md R280 to R282). -/

namespace Sys2Proof.Machine

variable {z : Params}

/-- The array bits a command in flight may have written in part (70_reset_and_hazards.md R282):
`buf b` bits 0 .. `bufLen`-1, both masks, rows 0 .. `rows`-1, entries `lvlFrom` .. `lvlFrom + lvls - 1`. -/
structure WriteSet where
  buf : Option Nat := none
  bufLen : Nat := 0
  masks : Bool := false
  rows : Nat := 0
  lvlFrom : Nat := 0
  lvls : Nat := 0
  deriving DecidableEq, Repr

/-- The write set of the command in CMDLATCH, by its opcode and the registers, which cannot have changed
since its issue (70_reset_and_hazards.md R282; log 7). A word with no legal opcode is no command. -/
def Block.writeSet (s : Block z) : WriteSet :=
  match opcodeMap.lookup (fieldOpc s.cmdLatch) with
  | some .lgen | some .lgens =>
    { buf := some (fieldBuf s.cmdLatch .d).toNat, bufLen := s.glen.toNat }
  | some .enc => { buf := some (fieldBuf s.cmdLatch .d).toNat, bufLen := s.m.toNat }
  | some .minit => { masks := true, rows := s.k.toNat + 1 }
  | some .mstep => { rows := s.ak.toNat + 1, lvlFrom := s.pos.toNat, lvls := 1 }
  | some .matchText => { masks := true, rows := s.k.toNat + 1, lvls := s.n.toNat }
  | some .nop | some .lload | some .lstep | none => { }

/-- Every bit of the write set takes a free value of a new draw; all other array bits keep their values
(70_reset_and_hazards.md R282; log 7). -/
def Block.scramble (s : Block z) (ws : WriteSet) : Block z :=
  { s with
    sb := vecOf z.nbuf fun b => vecOf z.bufBits fun i =>
      if ws.buf = some b ∧ i < ws.bufLen then Config.freeBit s.draws b i else s.sbBit b i
    mask0 := if ws.masks then Config.freeMask z.mMax s.draws false else s.mask0
    mask1 := if ws.masks then Config.freeMask z.mMax s.draws true else s.mask1
    row := vecOf (z.kMax + 1) fun k =>
      if k < ws.rows then Config.freeRow z.mMax s.draws k else s.rowK k
    matchLvls := vecOf z.bufBits fun p =>
      if ws.lvlFrom ≤ p ∧ p < ws.lvlFrom + ws.lvls then Config.freeLevel s.draws p else s.level p
    draws := s.draws + 1 }

/-- Every register takes its reset value; the arrays keep their contents (10_state.md R69,
70_reset_and_hazards.md R281). -/
def Block.resetRegisters (s : Block z) : Block z :=
  { Block.powerOn z with
    sb := s.sb
    mask0 := s.mask0
    mask1 := s.mask1
    row := s.row
    matchLvls := s.matchLvls
    inbox := s.inbox
    resp := s.resp
    draws := s.draws }

/-- A soft reset; while BUSY = 1 it abandons the command, whose write set becomes unspecified
(70_reset_and_hazards.md R281, R282). -/
def Block.softReset (s : Block z) : Block z :=
  if s.stBusy then (s.scramble s.writeSet).resetRegisters else s.resetRegisters

/-- A hard reset: every register at its reset value, every array unspecified by a new draw
(70_reset_and_hazards.md R280, 10_state.md R70). The turns still to come are not the block's. -/
def Block.hardReset (s : Block z) : Block z :=
  { Block.powerOn z with
    sb := freeSb z s.draws
    mask0 := Config.freeMask z.mMax s.draws false
    mask1 := Config.freeMask z.mMax s.draws true
    row := freeRows z s.draws
    matchLvls := freeLevels z s.draws
    inbox := s.inbox
    draws := s.draws + 1 }

end Sys2Proof.Machine
end

