-- ==== Sys2Proof/Machine/Port.lean ====
section
/-! DEFINITION. The host port: the address map, what an access is refused for, and what a read returns
and a write does (20_memory.md). -/

namespace Sys2Proof.Machine

variable {z : Params}

/-- The registers of the window (20_memory.md R87). -/
inductive Reg where
  | id | ctrl | status | cmd | cfg | deg | poly | seed | glen | m | n | k
  | state | adeg | apoly | am | ak | aflags | pos | lastLvl | minLvl
  deriving DecidableEq, Repr

/-- What a word offset of the window names (20_memory.md R87). -/
inductive Place where
  | reg (r : Reg)
  | array (a : ArrayWord)
  deriving DecidableEq, Repr

/-- The registers in the order of their offsets, one word each from 0x000 (20_memory.md R87). -/
def regMap : List Reg :=
  [.id, .ctrl, .status, .cmd, .cfg, .deg, .poly, .seed, .glen, .m, .n, .k,
   .state, .adeg, .apoly, .am, .ak, .aflags, .pos, .lastLvl, .minLvl]

/-- The array word at an offset by the formulas (20_memory.md R83 to R85). -/
def formulaWord (z : Params) (off : Nat) : Option ArrayWord :=
  if 0x400 ≤ off ∧ off < 0x400 + z.nbuf * z.bufBytes then
    some (.sb ((off - 0x400) / z.bufBytes) ((off - 0x400) % z.bufBytes / 4))
  else if 0x800 ≤ off ∧ off < 0x800 + 2 * z.bufBits then some (.levels ((off - 0x800) / 4))
  else if 0x1000 ≤ off ∧ off < 0x1000 + 2 * z.rowBytes then
    some (.mask (decide (z.rowBytes ≤ off - 0x1000)) ((off - 0x1000) % z.rowBytes / 4))
  else if 0x2000 ≤ off ∧ off < 0x2000 + (z.kMax + 1) * z.rowBytes then
    some (.row ((off - 0x2000) / z.rowBytes) ((off - 0x2000) % z.rowBytes / 4))
  else none

/-- The place at a word-aligned offset, none where the map is reserved: the registers from 0x000 to
0x050, and above them the arrays, by the formulas where these fit the window and by the parameter
ADDRESS_MAP where they do not (20_memory.md R83 to R85, R87; log 1). DESIGN CHOICE, unsafe (log 19): the
table of R87 lists reserved ranges for the reference configuration only; in every other one each offset
above 0x050 at which no array word stands is reserved too. -/
def placeAt (z : Params) (off : Nat) : Option Place :=
  if off < 0x054 then (regMap[off / 4]?).map .reg
  else if z.formulasFit then (formulaWord z off).map .array
  else (z.addressMap.lookup off).map .array

/-- The places whose write raises BusError (10_state.md R54). -/
def readOnly : Place → Bool
  | .reg .id | .reg .state | .reg .adeg | .reg .apoly | .reg .am | .reg .ak | .reg .aflags
  | .reg .pos | .reg .lastLvl | .reg .minLvl => true
  | .array (.levels _) | .array (.mask _ _) | .array (.row _ _) => true
  | .reg .ctrl | .reg .status | .reg .cmd | .reg .cfg | .reg .deg | .reg .poly | .reg .seed
  | .reg .glen | .reg .m | .reg .n | .reg .k | .array (.sb _ _) => false

/-- The accesses that proceed while BUSY = 1: a read of ID, and reads and writes of CTRL and STATUS
(20_memory.md R88). -/
def allowedWhileBusy : AccessKind → Place → Bool
  | .read, .reg .id => true
  | _, .reg .ctrl => true
  | _, .reg .status => true
  | _, _ => false

/-- The constant ID reads: "BRM" and version 1 (10_state.md R31). -/
def idWord : Word := 0x42524D01

/-- What a read of a register returns; reserved bits and CTRL.SRST read 0, CMD reads 0 (10_state.md R31
to R53). -/
def Block.readReg (s : Block z) : Reg → Word
  | .id => idWord
  | .ctrl => (BitVec.ofBool s.ie).setWidth 32
  | .status => s.statusWord
  | .cmd => 0
  | .cfg => ofBits 32 fun i =>
      match i with
      | 0 => s.cfgShiftOr
      | 1 => s.cfgAllowIns
      | 2 => s.cfgPreset
      | _ => false
  | .deg => s.deg.setWidth 32
  | .poly => s.poly
  | .seed => s.seed
  | .glen => s.glen.setWidth 32
  | .m => s.m.setWidth 32
  | .n => s.n.setWidth 32
  | .k => s.k.setWidth 32
  | .state => s.lfsr.setWidth 32
  | .adeg => s.adeg.setWidth 32
  | .apoly => s.apoly.setWidth 32
  | .am => s.am.setWidth 32
  | .ak => s.ak.setWidth 32
  | .aflags => ofBits 32 fun i =>
      match i with
      | 0 => s.aso
      | 1 => s.ains
      | _ => false
  | .pos => s.pos.setWidth 32
  | .lastLvl => s.lastLvl.setWidth 32
  | .minLvl => s.minLvl.setWidth 32

/-- What a read of a place returns (20_memory.md R83 to R85). -/
def Block.readPlace (s : Block z) : Place → Word
  | .reg r => s.readReg r
  | .array (.sb b w) => packWord (s.sbBit b) w
  | .array (.levels q) => packHalves (s.level (2 * q)) (s.level (2 * q + 1))
  | .array (.mask c w) => packWord (s.mask c).getLsbD w
  | .array (.row k w) => packWord (s.rowK k).getLsbD w

/-- A write of `v` to CTRL: SRST = 1 is a soft reset whatever IE the write carried, else IE <- v[0]
(10_state.md R32, 70_reset_and_hazards.md R281). -/
def Block.writeCtrl (s : Block z) (v : Word) : Block z :=
  if v.getLsbD 1 then s.softReset else { s with ie := v.getLsbD 0 }

/-- `count` times SB[b][i] <- v[t], from index `i` and bit `t` on (20_memory.md R83). -/
def writeBits (v : Word) (b : Nat) : (i t count : Nat) → Block z → Block z
  | _, _, 0, s => s
  | i, t, count + 1, s => writeBits v b (i + 1) (t + 1) count (s.setSbBit b i (v.getLsbD t))

/-- What a write of `v` to a register does; reserved bits are ignored, defined fields are stored as
written (10_state.md R32 to R43, R53). A read-only register does not change (R54). -/
def Block.writeReg (s : Block z) (v : Word) : Reg → Block z
  | .ctrl => s.writeCtrl v
  | .status => s.writeStatus v
  | .cmd => s.issue v
  | .cfg =>
    { s with cfgShiftOr := v.getLsbD 0, cfgAllowIns := v.getLsbD 1, cfgPreset := v.getLsbD 2 }
  | .deg => { s with deg := v.setWidth 6 }
  | .poly => { s with poly := v }
  | .seed => { s with seed := v }
  | .glen => { s with glen := v.setWidth 16 }
  | .m => { s with m := v.setWidth 16 }
  | .n => { s with n := v.setWidth 16 }
  | .k => { s with k := v.setWidth 16 }
  | .id | .state | .adeg | .apoly | .am | .ak | .aflags | .pos | .lastLvl | .minLvl => s

/-- What a write of `v` to a place does; only SB among the arrays is writable (20_memory.md R83 to R85,
10_state.md R54). -/
def Block.writePlace (s : Block z) (v : Word) : Place → Block z
  | .reg r => s.writeReg v r
  | .array (.sb b w) => writeBits v b (32 * w) 0 32 s
  | .array (.levels _) | .array (.mask _ _) | .array (.row _ _) => s

/-- raise BusError: no state of the block changes; a refused read returns data 0 (20_memory.md R86). -/
def Block.busError (s : Block z) (kind : AccessKind) : Block z :=
  match kind with
  | .read => { s with resp := .readError 0 }
  | .write _ => { s with resp := .writeError }

/-- HostAccess(kind, off, size, v): the four refusals in their order, then the read or the write
(20_memory.md R86). -/
def Block.portAccess (s : Block z) (off size : Nat) (kind : AccessKind) : Block z :=
  if size ≠ 4 ∨ off % 4 ≠ 0 then s.busError kind
  else
    match placeAt z off with
    | none => s.busError kind
    | some p =>
      if s.stBusy && !allowedWhileBusy kind p then s.busError kind
      else
        match kind with
        | .read => { s with resp := .readData (s.readPlace p) }
        | .write v =>
          if readOnly p then s.busError kind else { s.writePlace v p with resp := .writeDone }

/-- A host access at a host byte address: the block answers only inside its window (20_memory.md R80;
log 10). -/
def Block.hostAccess (s : Block z) (addr size : Nat) (kind : AccessKind) : Block z :=
  if z.base ≤ addr ∧ addr < z.base + Config.WINDOW then
    s.portAccess (addr - z.base) size kind
  else { s with resp := .notDecoded }

end Sys2Proof.Machine
end

