-- ==== Sys2Proof/Machine/Engine.lean ====
section
/-! DEFINITION. The command engine's one step, and what each turn of an agent does. -/

namespace Sys2Proof.Machine

/-- Complete(): decode the latched word, execute it or record the decoder's error, then BUSY <- 0 and
DONE <- 1, in one atomic step (40_control.md R141, R143). -/
def complete (s : State) : Host.Outcome State Fault Refusal :=
  match decode s.params.nbuf s.block.cmdLatch with
  | .error e => s.onBlock fun b => (b.cmdError e).finish
  | .ok i =>
    match exec i s with
    | .next t => t.onBlock Block.finish
    | .fault r => .fault r
    | .refused r => .refused r

/-- The engine's turn: Complete is enabled only while BUSY = 1; an idle block holds its state
(40_control.md R141, 60_exceptions.md R264). -/
def engineTurn (s : State) : Host.Outcome State Fault Refusal :=
  if s.block.stBusy then complete s else .next s

/-- What one turn does (20_memory.md R91, 40_control.md R141, 70_reset_and_hazards.md R280). -/
def takeTurn (t : Turn) (s : State) : Host.Outcome State Fault Refusal :=
  match t with
  | .access addr size kind => s.onBlock fun b => b.hostAccess addr size kind
  | .engine => engineTurn s
  | .hardReset => s.onBlock Block.hardReset

end Sys2Proof.Machine
end

