-- ==== Sys2Proof/Machine/Step.lean ====
section
/-! DEFINITION. One step of the machine: the next turn listed, or the engine's where none is. -/

namespace Sys2Proof.Machine

/-- The first listed turn is taken and leaves the list; with none listed the engine moves, so that a
busy block completes and an idle block waits (20_memory.md R91, 40_control.md R142; log 3). -/
def step (s : State) : Host.Outcome State Fault Refusal :=
  match s.block.inbox with
  | [] => engineTurn s
  | t :: rest => takeTurn t ⟨s.params, { s.block with inbox := rest }⟩

/-- `s` with the word issued as a command (40_control.md R140) and the engine's turn next, so that the
very next step runs it: the block fetches nothing, a host write to CMD brings each command (log 4). -/
def State.withFetchWord (s : State) (nbits w : Nat) : State :=
  ⟨s.params, { s.block.issue (tableWord nbits w) with inbox := .engine :: s.block.inbox }⟩

end Sys2Proof.Machine
end

