-- ==== Sys2Proof/Safety.lean ====
section
/-! DEFINITION. What a safe state is, in the terms the statements use: the invariants the spec states,
the legal configurations, and the units' results as closed forms of the spec's rules. -/

namespace Sys2Proof.Machine

variable {z : Params}

/-! ### Legal configurations -/

/-- DEG is legal: a preset's degree with PRESET = 1, else 1..DEG_MAX (41_lfsr.md R160). -/
def Block.degreeLegal (s : Block z) : Prop :=
  (s.cfgPreset = true → s.deg = 11 ∨ s.deg = 16) ∧
  (s.cfgPreset = false → 1 ≤ s.deg.toNat ∧ s.deg.toNat ≤ z.degMax)

/-- POLY is legal: below 2^DEG, or not read (41_lfsr.md R160). -/
def Block.polyLegal (s : Block z) : Prop :=
  s.cfgPreset = false → s.poly.toNat < 2 ^ s.deg.toNat

/-- SEED is legal: below 2^DEG (41_lfsr.md R160). -/
def Block.seedLegal (s : Block z) : Prop := s.seed.toNat < 2 ^ s.deg.toNat

/-- The LFSR configuration passes LfsrLoadCheck (41_lfsr.md R160). -/
def Block.loadLegal (s : Block z) : Prop := s.degreeLegal ∧ s.polyLegal ∧ s.seedLegal

/-- GLEN is in 1..BUF_BITS (10_state.md R40). -/
def Block.glenLegal (s : Block z) : Prop := 1 ≤ s.glen.toNat ∧ s.glen.toNat ≤ z.bufBits

/-- M is in 1..M_MAX (10_state.md R41). -/
def Block.mLegal (s : Block z) : Prop := 1 ≤ s.m.toNat ∧ s.m.toNat ≤ z.mMax

/-- K is below M and at most K_MAX (10_state.md R43). -/
def Block.kLegal (s : Block z) : Prop := s.k.toNat < s.m.toNat ∧ s.k.toNat ≤ z.kMax

/-- N is in 2M..BUF_BITS (10_state.md R42). -/
def Block.nLegal (s : Block z) : Prop := 2 * s.m.toNat ≤ s.n.toNat ∧ s.n.toNat ≤ z.bufBits

/-- The operand names a buffer that exists (30_encoding.md R114). -/
def bufLegal (z : Params) (b : BufIx) : Prop := b.toNat < z.nbuf

/-- The polynomial a load latches: the preset constant of the degree, or POLY (00_scope.md R3,
41_lfsr.md R160). -/
def Block.loadPoly (s : Block z) : BitVec 32 :=
  if s.cfgPreset then (if s.deg = 11 then 1209 else 33262) else s.poly

/-- The state in which a command error of this code is recorded and nothing else has changed
(60_exceptions.md R251). -/
def Block.withError (s : Block z) (code : BitVec 8) : Block z := { s with stErr := true, errcode := code }

/-! ### The LFSR's output -/

/-- The LFSR state after `t` steps from `st` (41_lfsr.md R161). -/
def lfsrAfter {len : Nat} (deg : Nat) (poly st : BitVec len) : Nat → BitVec len
  | 0 => st
  | t + 1 => lfsrNext deg poly (lfsrAfter deg poly st t)

/-- The bit emitted by step number `t` from `st` (41_lfsr.md R161). -/
def lfsrBit {len : Nat} (deg : Nat) (poly st : BitVec len) (t : Nat) : Bool :=
  lfsrOut deg (lfsrAfter deg poly st t)

/-- Emitted bit number `t` of a generation with the configuration of `s` (41_lfsr.md R164). -/
def Block.genBit (s : Block z) (t : Nat) : Bool :=
  lfsrBit (len := z.degMax) s.deg.toNat (s.loadPoly.setWidth _) (s.seed.setWidth _) t

/-- The LFSR state after `t` steps of a generation with the configuration of `s` (41_lfsr.md R164). -/
def Block.genState (s : Block z) (t : Nat) : BitVec z.degMax :=
  lfsrAfter s.deg.toNat (s.loadPoly.setWidth _) (s.seed.setWidth _) t

/-! ### The combiner's result -/

/-- The number of ones among `f 0`, …, `f (n - 1)`. -/
def onesBelow (f : Nat → Bool) : Nat → Nat
  | 0 => 0
  | n + 1 => onesBelow f n + if f n then 1 else 0

/-- Ciphertext bit `i` in closed form: the decimated bit at i plus the ones of the clock up to and with
position i, XOR the plaintext bit (42_combiner.md R190, R192). -/
def combineBit (clk dec pt : Nat → Bool) (i : Nat) : Bool := dec (i + onesBelow clk (i + 1)) ^^ pt i

/-! ### The matcher's rows as sets of pattern prefixes -/

/-- Bit j of ROW[k] has the matched polarity: 1 under Shift-AND, 0 under Shift-OR (43_matcher.md R224). -/
def Block.lit (s : Block z) (k j : Nat) : Bool := (s.rowK k).getLsbD j != s.aso

/-- The next column of the distance table for one text symbol `c` (43_matcher.md R240). -/
def distNext (ains : Bool) (pat : Nat → Bool) (c : Bool) (d : Nat → Nat) : Nat → Nat
  | 0 => 0
  | j + 1 =>
    let extra := d (j + 1) + 1
    if ains then min (d j + if pat j = c then 0 else 1) (min extra (distNext ains pat c d j + 1))
    else if pat j = c then min (d j) extra else extra

/-- The column after the first `p` text symbols; before the first one it is d[j] = j (43_matcher.md R240). -/
def distCol (ains : Bool) (pat text : Nat → Bool) : Nat → Nat → Nat
  | 0 => fun j => j
  | p + 1 => distNext ains pat (text p) (distCol ains pat text p)

/-! ### Invariants the spec states -/

/-- 10_state.md R61. -/
def Block.lfsrOk (s : Block z) : Prop :=
  s.stLv = true → 1 ≤ s.adeg.toNat ∧ s.adeg.toNat ≤ z.degMax ∧
    s.apoly.toNat < 2 ^ s.adeg.toNat ∧ s.lfsr.toNat < 2 ^ s.adeg.toNat

/-- 10_state.md R62. -/
def Block.matcherOk (s : Block z) : Prop :=
  s.stMv = true → 1 ≤ s.am.toNat ∧ s.am.toNat ≤ z.mMax ∧ s.ak.toNat < s.am.toNat ∧ s.ak.toNat ≤ z.kMax ∧
    s.pos.toNat ≤ z.bufBits ∧ s.minLvl.toNat ≤ s.am.toNat

/-- 43_matcher.md R236: nothing is set at or above AM in the masks and in rows 0..AK. -/
def Block.windowOk (s : Block z) : Prop :=
  s.stMv = true → ∀ j, s.am.toNat ≤ j → s.mask0.getLsbD j = false ∧ s.mask1.getLsbD j = false ∧
    ∀ k, k ≤ s.ak.toNat → (s.rowK k).getLsbD j = false

/-- 43_matcher.md R237: what row k signals, row k + 1 signals. -/
def Block.nestedOk (s : Block z) : Prop :=
  s.stMv = true → ∀ k j, k < s.ak.toNat → j < s.am.toNat → s.lit k j = true → s.lit (k + 1) j = true

/-- The outcome bits: a busy block shows no outcome (40_control.md R140), ERR is set exactly when ERRCODE
is not 0, and no code above 0x0A appears (60_exceptions.md R250, R251; 10_state.md R34). -/
def Block.outcomeOk (s : Block z) : Prop :=
  (s.stBusy = true → s.stDone = false ∧ s.stErr = false) ∧
  (s.stErr = true ↔ s.errcode ≠ 0) ∧ s.errcode.toNat ≤ 0x0A

/-- The results since the last MINIT or MATCH: every recorded level is at most AK or is AM (10_state.md
R58), MINLVL is the least of them or AM (R52, 43_matcher.md R214), LASTLVL is the last of them or AM
(R51), and ANY says that one is below AM (43_matcher.md R214, R225). -/
def Block.resultsOk (s : Block z) : Prop :=
  s.stMv = true →
    (∀ p, p < s.pos.toNat → ((s.level p).toNat ≤ s.ak.toNat ∨ s.level p = s.am) ∧
      s.minLvl.toNat ≤ (s.level p).toNat) ∧
    (s.minLvl = s.am ∨ ∃ p, p < s.pos.toNat ∧ s.level p = s.minLvl) ∧
    (if s.pos = 0 then s.lastLvl = s.am else s.lastLvl = s.level (s.pos.toNat - 1)) ∧
    (s.stAny = true ↔ s.minLvl.toNat < s.am.toNat)

/-- Every register at its value in the table of 10_state.md R69. -/
def Block.registersAtReset (s : Block z) : Prop :=
  s.readReg .id = 0x42524D01 ∧ s.ie = false ∧ s.statusWord = 0 ∧ s.cmdLatch = 0 ∧
  s.cfgShiftOr = false ∧ s.cfgAllowIns = false ∧ s.cfgPreset = false ∧
  s.deg = 0 ∧ s.poly = 0 ∧ s.seed = 0 ∧ s.glen = 0 ∧ s.m = 0 ∧ s.n = 0 ∧ s.k = 0 ∧
  s.lfsr = 0 ∧ s.adeg = 0 ∧ s.apoly = 0 ∧ s.am = 0 ∧ s.ak = 0 ∧ s.aso = false ∧ s.ains = false ∧
  s.pos = 0 ∧ s.lastLvl = 0 ∧ s.minLvl = 0 ∧
  s.stBusy = false ∧ s.stDone = false ∧ s.stErr = false ∧ s.stAny = false ∧ s.stOut = false ∧
  s.stLv = false ∧ s.stMv = false ∧ s.errcode = 0

/-- The parameters obey the constraints of 00_scope.md R2, and the invariant holds of the block. -/
def State.has (s : State) (inv : {z : Params} → Block z → Prop) : Prop :=
  s.params.ok ∧ inv s.block

/-! ### The address map -/

/-- The offset of an array word by the formulas (20_memory.md R83 to R85). -/
def formulaOffset (z : Params) : ArrayWord → Nat
  | .sb b w => 0x400 + b * (z.bufBits / 8) + 4 * w
  | .levels q => 0x800 + 4 * q
  | .mask c w => 0x1000 + (if c then z.mMax / 8 else 0) + 4 * w
  | .row k w => 0x2000 + k * (z.mMax / 8) + 4 * w

/-- The array word stands at the offset: at the formula's where the formulas fit the window, else where
the parameter ADDRESS_MAP puts it (20_memory.md R87). -/
def wordAt (z : Params) (off : Nat) (a : ArrayWord) : Prop :=
  if z.formulasFit then z.hasWord a ∧ off = formulaOffset z a else (off, a) ∈ z.addressMap

/-- Neither a register nor an array word stands at the offset: the reserved ranges of 20_memory.md R87 in
the reference configuration, the model's choice in every other one (log 19). -/
def reservedAt (z : Params) (off : Nat) : Prop := 0x054 ≤ off ∧ ∀ a, ¬ wordAt z off a

/-- The array word is one of a read-only array (20_memory.md R84, R85; 10_state.md R54). -/
def arrayReadOnly : ArrayWord → Prop
  | .sb _ _ => False
  | .levels _ | .mask _ _ | .row _ _ => True

/-! ### Comparing runs -/

/-- `t` is the Shift-OR image of the Shift-AND state `s`: masks and rows 0..AK complemented within AM
bits, the convention bits apart, and everything else equal, the levels among it (43_matcher.md R235). -/
def shiftDual (s t : Block z) : Prop :=
  s.aso = false ∧
  t = { s with
    aso := true, cfgShiftOr := t.cfgShiftOr
    mask0 := notW s.am.toNat s.mask0, mask1 := notW s.am.toNat s.mask1, row := t.row } ∧
  ∀ k, k ≤ s.ak.toNat → t.rowK k = notW s.am.toNat (s.rowK k)

/-- The MSTEPs of a text, one after the other, stopping at the first that gives no next state. -/
def runMsteps : List Bool → State → Host.Outcome State Fault Refusal
  | [], s => .next s
  | c :: text, s =>
    match exec (.mstep c) s with
    | .next t => runMsteps text t
    | .fault r => .fault r
    | .refused r => .refused r

/-- MINIT of the pattern in SB[a], then one MSTEP for each symbol of the text (43_matcher.md R230). -/
def runText (a : BufIx) (text : List Bool) (s : State) : Host.Outcome State Fault Refusal :=
  match exec (.minit a) s with
  | .next t => runMsteps text t
  | .fault r => .fault r
  | .refused r => .refused r

/-- Text symbol `p`; a symbol past the text's end reads 0, and no statement asks for one. -/
def textBit (text : List Bool) (p : Nat) : Bool := text.getD p false

/-! ### Safety of a step -/

/-- The step from `s` goes on, neither in a fault nor in a refusal, with the parameters it was built
with (00_scope.md R2). -/
def State.goesOn (s : State) : Prop := ∃ t, step s = .next t ∧ t.params = s.params

end Sys2Proof.Machine
end

