-- ==== Sys2Proof/Certificates/Slice0/Obligations.lean ====
section
/-! DEFINITION. The statements for the provers. Each docstring names the rule of spec/ it formalises, or
says what it is derived from. The block's parameters are the model's argument (00_scope.md R2): a
statement about a block holds for every `z : Params`, or for every `z.ok` that obeys R2's constraints. -/

open Sys2Proof Sys2Proof.Machine

/-! ### Encoding -/

/-- Decoding the word of a well-formed command gives that command back, every operand at every value, for
every number of buffers (30_encoding.md R113, R118, R119; 00_scope.md R2). -/
def Obligations.DecodeInvertsEncode : Prop :=
  ∀ (nbuf : Nat) (i : Instr), nbuf ≤ 8 → i.wellFormed nbuf = true → decode nbuf (encode i) = .ok i

/-- A word that decodes is the encoding of a well-formed command: no bit of a legal word is ignored
(30_encoding.md R113, R117, R118). -/
def Obligations.EncodeInvertsDecode : Prop :=
  ∀ (nbuf : Nat) (w : Word) (i : Instr), decode nbuf w = .ok i → i.wellFormed nbuf = true ∧ encode i = w

/-- Words written out from 30_encoding.md R113 decode to the commands they stand for in a
block of eight buffers. -/
def Obligations.SampleWordsDecode : Prop :=
  decode 8 0x00000000 = .ok .nop ∧ decode 8 0x10000000 = .ok .lload ∧ decode 8 0x11000000 = .ok .lstep ∧
  decode 8 0x12700000 = .ok (.lgen 7) ∧ decode 8 0x13500001 = .ok (.lgens 5 true) ∧
  decode 8 0x20765400 = .ok (.enc 7 6 5 4) ∧ decode 8 0x30070000 = .ok (.minit 7) ∧
  decode 8 0x31000001 = .ok (.mstep true) ∧ decode 8 0x32013000 = .ok (.matchText 1 3)

/-- 30_encoding.md R116: an OPC value outside the nine is illegal; executing the word ends the command
with code 0x01 and no other effect. -/
def Obligations.IllegalOpcodeEndsTheCommand : Prop :=
  ∀ (z : Params) (s : Block z), s.stBusy = true →
    (s.cmdLatch.extractLsb' 24 8).toNat ∉ [0x00, 0x10, 0x11, 0x12, 0x13, 0x20, 0x30, 0x31, 0x32] →
    decode z.nbuf s.cmdLatch = .error .illegalOpcode ∧
    engineTurn ⟨z, s⟩ =
      .next ⟨z, { s with stErr := true, errcode := 0x01, stBusy := false, stDone := true }⟩

/-- 30_encoding.md R114, R117: a listed opcode with a field that must be zero nonzero, IMM[7:1] nonzero,
or a used buffer field of NBUF or more, ends the command with code 0x02 and no other effect. -/
def Obligations.IllegalFieldEndsTheCommand : Prop :=
  ∀ (z : Params) (s : Block z) (op : Opcode), s.stBusy = true →
    (s.cmdLatch.extractLsb' 24 8, op) ∈ opcodeMap →
    (s.cmdLatch &&& rowMask op ≠ rowMatch op ∨
      ∃ f ∈ rowUsed op, z.nbuf ≤ (s.cmdLatch.extractLsb' (bufFieldLsb f) 4).toNat) →
    decode z.nbuf s.cmdLatch = .error .illegalField ∧
    engineTurn ⟨z, s⟩ =
      .next ⟨z, { s with stErr := true, errcode := 0x02, stBusy := false, stDone := true }⟩

/-! ### Reset and the invariants -/

/-- 10_state.md R69: after a hard reset or a soft reset, and at power-on, every register takes its value
in the table. -/
def Obligations.ResetGivesTheTable : Prop :=
  State.reset.block.registersAtReset ∧
  ∀ z : Params, (Block.powerOn z).registersAtReset ∧
    ∀ s : Block z, s.hardReset.registersAtReset ∧ s.softReset.registersAtReset

/-- The constraints of 00_scope.md R2 hold of the reference configuration, and the invariants hold at
reset, in every configuration that obeys the constraints (10_state.md R61, R62; 43_matcher.md R214, R236,
R237; 60_exceptions.md R250). -/
def Obligations.ResetSatisfiesTheInvariants : Prop :=
  State.reset = State.powerOn Params.reference ∧ Params.reference.ok ∧
  ∀ z : Params, z.ok →
    (State.powerOn z).has Block.lfsrOk ∧ (State.powerOn z).has Block.matcherOk ∧
    (State.powerOn z).has Block.windowOk ∧ (State.powerOn z).has Block.nestedOk ∧
    (State.powerOn z).has Block.outcomeOk ∧ (State.powerOn z).has Block.resultsOk

/-- Every step keeps 10_state.md R61: degree, polynomial and state of a loaded LFSR stay in range. -/
def Obligations.StepKeepsLfsrInRange : Prop :=
  ∀ s t : State, s.has Block.lfsrOk → step s = .next t → t.has Block.lfsrOk

/-- Every step keeps 10_state.md R62: the matcher's latched parameters, position and MINLVL stay in
range. -/
def Obligations.StepKeepsMatcherInRange : Prop :=
  ∀ s t : State, s.has Block.matcherOk → step s = .next t → t.has Block.matcherOk

/-- Every step keeps 43_matcher.md R236: nothing at or above AM is set in the masks and rows 0..AK. -/
def Obligations.StepKeepsMatcherWindow : Prop :=
  ∀ s t : State, s.has Block.matcherOk → s.has Block.windowOk → step s = .next t → t.has Block.windowOk

/-- Every step keeps 43_matcher.md R237: the rows are nested. -/
def Obligations.StepKeepsRowsNested : Prop :=
  ∀ s t : State, s.has Block.matcherOk → s.has Block.nestedOk → step s = .next t → t.has Block.nestedOk

/-- Every step keeps the outcome bits consistent (40_control.md R140, R141; 10_state.md R34;
60_exceptions.md R250, R251). -/
def Obligations.StepKeepsOutcomeConsistent : Prop :=
  ∀ s t : State, s.has Block.outcomeOk → step s = .next t → t.has Block.outcomeOk

/-- Every step keeps the recorded results consistent: the levels are AK at most or AM, MINLVL is the
least of them, LASTLVL the last, ANY says one is below AM (10_state.md R51, R52, R58;
43_matcher.md R214, R225). -/
def Obligations.StepKeepsResultsConsistent : Prop :=
  ∀ s t : State, s.has Block.matcherOk → s.has Block.resultsOk → step s = .next t → t.has Block.resultsOk

/-! ### The machine as a whole -/

/-- 40_control.md R141, R143: with BUSY = 1, the engine's turn executes the decoded word, then BUSY <- 0
and DONE <- 1, whether the turn is listed, is the default, or follows a word placed as a command. The
list of turns and `withFetchWord` are the model's: log 3, log 4. -/
def Obligations.StepRunsTheDecodedCommand : Prop :=
  ∀ z : Params,
  (∀ (s t : Block z) (i : Instr), s.stBusy = true → s.inbox = [] → decode z.nbuf s.cmdLatch = .ok i →
    exec i ⟨z, s⟩ = .next ⟨z, t⟩ →
    step ⟨z, s⟩ = .next ⟨z, { t with stBusy := false, stDone := true }⟩) ∧
  (∀ (s t : Block z) (i : Instr) (rest : List Turn), s.stBusy = true → s.inbox = .engine :: rest →
    decode z.nbuf s.cmdLatch = .ok i → exec i ⟨z, { s with inbox := rest }⟩ = .next ⟨z, t⟩ →
    step ⟨z, s⟩ = .next ⟨z, { t with stBusy := false, stDone := true }⟩) ∧
  (∀ (s t : Block z) (nbits w : Nat) (i : Instr), decode z.nbuf (tableWord nbits w) = .ok i →
    exec i ⟨z, { s with
      cmdLatch := tableWord nbits w, stBusy := true, stDone := false, stErr := false, errcode := 0 }⟩ =
      .next ⟨z, t⟩ →
    step (State.withFetchWord ⟨z, s⟩ nbits w) =
      .next ⟨z, { t with stBusy := false, stDone := true }⟩)

/-- 20_memory.md R90, R91, 40_control.md R141: a step takes one listed turn, a host access, a hard reset
or the engine's, or the engine's where none is listed; an idle engine changes nothing. The list of turns
is the model's: log 3. -/
def Obligations.StepTakesOneTurn : Prop :=
  ∀ z : Params,
  (∀ (s : Block z) (addr size : Nat) (kind : AccessKind) (rest : List Turn),
    s.inbox = .access addr size kind :: rest →
    step ⟨z, s⟩ = .next ⟨z, Block.hostAccess { s with inbox := rest } addr size kind⟩) ∧
  (∀ (s : Block z) (rest : List Turn), s.inbox = .hardReset :: rest →
    step ⟨z, s⟩ = .next ⟨z, Block.hardReset { s with inbox := rest }⟩) ∧
  (∀ (s : Block z) (rest : List Turn), s.inbox = .engine :: rest →
    step ⟨z, s⟩ = engineTurn ⟨z, { s with inbox := rest }⟩) ∧
  (∀ s : Block z, s.inbox = [] → step ⟨z, s⟩ = engineTurn ⟨z, s⟩) ∧
  (∀ s : Block z, s.stBusy = false → engineTurn ⟨z, s⟩ = .next ⟨z, s⟩)

/-- The model's reading (log 14, DEDUCED from 60_exceptions.md R255 and R265, which say that the block has
no trap and no internal fault): every step of the model answers a next state, with the parameters
unchanged. For a host access outside the window it also rests on log 10. -/
def Obligations.EveryStepGoesOn : Prop := ∀ s : State, s.goesOn

/-- Once the listed turns are over, the engine's next turn leaves the block idle, BUSY = 0: a command in
flight by then has been completed by an engine turn or abandoned by a reset (40_control.md R142,
70_reset_and_hazards.md R280 to R282). That the engine moves where no turn is listed is the model's
choice: log 3. -/
def Obligations.TheBlockIsIdleOnceTheTurnsAreOver : Prop :=
  ∀ s : State, ∃ t : State,
    Host.Core.run Sys2Proof.core (s.block.inbox.length + 1) s = .next t ∧ t.block.stBusy = false

/-- 40_control.md R140: a write to CMD while BUSY = 0 latches the word, sets BUSY and clears DONE, ERR
and ERRCODE; a write while BUSY = 1 is refused and issues nothing. -/
def Obligations.WriteToCmdIssues : Prop :=
  ∀ (z : Params) (s : Block z) (v : Word),
    (s.stBusy = false → s.portAccess 0x00C 4 (.write v) =
      { s with
        cmdLatch := v, stBusy := true, stDone := false, stErr := false, errcode := 0
        resp := .writeDone }) ∧
    (s.stBusy = true → s.portAccess 0x00C 4 (.write v) = { s with resp := .writeError })

/-- 60_exceptions.md R257: IRQ = IE & DONE. Completion of every command raises it while IE = 1; W1C of
DONE, the next issue, IE <- 0 and a reset lower it; enabling IE while DONE = 1 raises it at once. -/
def Obligations.InterruptFollowsEnableAndDone : Prop :=
  ∀ z : Params,
  (∀ s : Block z, s.irq = (s.ie && s.stDone)) ∧
  (∀ s : Block z, s.stBusy = true → ∃ t, engineTurn ⟨z, s⟩ = .next ⟨z, t⟩ ∧ t.irq = s.ie) ∧
  (∀ (s : Block z) (v : Word), s.stBusy = false → (s.portAccess 0x00C 4 (.write v)).irq = false) ∧
  (∀ (s : Block z) (v : Word), v.getLsbD 1 = true → (s.portAccess 0x008 4 (.write v)).irq = false) ∧
  (∀ (s : Block z) (v : Word), v.getLsbD 1 = false →
    (s.portAccess 0x004 4 (.write v)).irq = (v.getLsbD 0 && s.stDone)) ∧
  (∀ (s : Block z) (v : Word), v.getLsbD 1 = true → (s.portAccess 0x004 4 (.write v)).irq = false) ∧
  (∀ s : Block z, s.hardReset.irq = false)

/-- No command writes a configuration register, the engine's latch, BUSY, DONE or IE (10_state.md R30,
R68; 40_control.md R141). -/
def Obligations.CommandsLeaveConfigurationAlone : Prop :=
  ∀ (z : Params) (i : Instr) (s t : Block z), exec i ⟨z, s⟩ = .next ⟨z, t⟩ →
    t.cmdLatch = s.cmdLatch ∧ t.stBusy = s.stBusy ∧ t.stDone = s.stDone ∧ t.ie = s.ie ∧
    t.cfgShiftOr = s.cfgShiftOr ∧ t.cfgAllowIns = s.cfgAllowIns ∧ t.cfgPreset = s.cfgPreset ∧
    t.deg = s.deg ∧ t.poly = s.poly ∧ t.seed = s.seed ∧ t.glen = s.glen ∧ t.m = s.m ∧ t.n = s.n ∧
    t.k = s.k ∧ t.inbox = s.inbox ∧ t.resp = s.resp ∧ t.draws = s.draws

/-- 60_exceptions.md R252: a command that reports an error other than SKIP_EXHAUSTED has changed only
STATUS.ERR and STATUS.ERRCODE. -/
def Obligations.PreCheckErrorChangesOnlyStatus : Prop :=
  ∀ (z : Params) (i : Instr) (s t : Block z), exec i ⟨z, s⟩ = .next ⟨z, t⟩ → t.errcode ≠ s.errcode →
    t.errcode ≠ 0x0A →
    t = { s with stErr := true, errcode := t.errcode }

/-! ### Control -/

/-- 40_control.md R146: NOP changes nothing. -/
def Obligations.NopChangesNothing : Prop :=
  ∀ (z : Params) (s : Block z), exec .nop ⟨z, s⟩ = .next ⟨z, s⟩

/-- The model's second check of the buffer fields (log 9, DEDUCED): `exec` of a command with a used buffer
field of NBUF or more reports ILLEGAL_FIELD, and nothing else changes. No word decodes to such a command
(EncodeInvertsDecode), so no step reaches this; what the block does with such a word, 30_encoding.md R114
and R117, is IllegalFieldEndsTheCommand. -/
def Obligations.BufferFieldOutOfRangeFails : Prop :=
  ∀ (z : Params) (i : Instr) (s : Block z), i.wellFormed z.nbuf = false →
    exec i ⟨z, s⟩ = .next ⟨z, s.withError 0x02⟩

/-- NOT_INIT and MATCHES_FULL (60_exceptions.md R250, R253; 41_lfsr.md R163; 43_matcher.md R220). -/
def Obligations.UninitialisedUnitsReportNotInit : Prop :=
  ∀ z : Params,
  (∀ s : Block z, s.stLv = false → exec .lstep ⟨z, s⟩ = .next ⟨z, s.withError 0x08⟩) ∧
  (∀ (s : Block z) (c : Bool), s.stMv = false → exec (.mstep c) ⟨z, s⟩ = .next ⟨z, s.withError 0x08⟩) ∧
  (∀ (s : Block z) (c : Bool), s.stMv = true → z.bufBits ≤ s.pos.toNat →
    exec (.mstep c) ⟨z, s⟩ = .next ⟨z, s.withError 0x09⟩)

/-! ### LFSR unit -/

/-- 41_lfsr.md R160, R162: LLOAD with a legal configuration latches degree, polynomial and seed, every bit
of them, and sets LV; nothing else changes. -/
def Obligations.LloadLatchesTheConfiguration : Prop :=
  ∀ (z : Params) (s : Block z), z.ok → s.loadLegal → ∃ t, exec .lload ⟨z, s⟩ = .next ⟨z, t⟩ ∧
    t = { s with adeg := s.deg, apoly := t.apoly, lfsr := t.lfsr, stLv := true } ∧
    t.apoly.toNat = s.loadPoly.toNat ∧ t.lfsr.toNat = s.seed.toNat

/-- 60_exceptions.md R253, rows LLOAD, LGEN and LGENS: BAD_DEGREE before BAD_POLY before BAD_SEED before
BAD_LENGTH, each changing only ERR and ERRCODE. -/
def Obligations.LoadErrorsComeInOrder : Prop :=
  ∀ (z : Params) (i : Instr) (s : Block z),
    (i = .lload ∨ ∃ d, bufLegal z d ∧ (i = .lgen d ∨ ∃ sym, i = .lgens d sym)) →
    (¬ s.degreeLegal → exec i ⟨z, s⟩ = .next ⟨z, s.withError 0x03⟩) ∧
    (s.degreeLegal → ¬ s.polyLegal → exec i ⟨z, s⟩ = .next ⟨z, s.withError 0x04⟩) ∧
    (s.degreeLegal → s.polyLegal → ¬ s.seedLegal → exec i ⟨z, s⟩ = .next ⟨z, s.withError 0x05⟩) ∧
    (s.loadLegal → i ≠ .lload → ¬ s.glenLegal → exec i ⟨z, s⟩ = .next ⟨z, s.withError 0x06⟩)

/-- 41_lfsr.md R161, R163: LSTEP emits S[ADEG-1], shifts S left within the ADEG-bit window and puts the
parity of the tapped bits of the old state into bit 0; nothing but S and OUT changes. -/
def Obligations.LstepShiftsTheRegister : Prop :=
  ∀ (z : Params) (s : Block z), s.stLv = true → s.lfsrOk → ∃ t, exec .lstep ⟨z, s⟩ = .next ⟨z, t⟩ ∧
    t = { s with lfsr := t.lfsr, stOut := s.lfsr.getLsbD (s.adeg.toNat - 1) } ∧
    (t.lfsr.getLsbD 0 =
      decide (onesBelow (fun i => s.lfsr.getLsbD i && s.apoly.getLsbD i) z.degMax % 2 = 1)) ∧
    ∀ j, t.lfsr.getLsbD (j + 1) = (decide (j + 1 < s.adeg.toNat) && s.lfsr.getLsbD j)

/-- 41_lfsr.md R164: LGEN loads, then writes the first GLEN emitted bits to SB[D][0..GLEN-1]; S is the
state after GLEN steps, OUT the last emitted bit, and every other bit and field keeps its value. -/
def Obligations.LgenRecordsTheEmittedBits : Prop :=
  ∀ (z : Params) (d : BufIx) (s : Block z), bufLegal z d → s.loadLegal → s.glenLegal →
    ∃ t, exec (.lgen d) ⟨z, s⟩ = .next ⟨z, t⟩ ∧
      t = { s with
        sb := t.sb, adeg := s.deg, apoly := s.loadPoly.setWidth _, lfsr := s.genState s.glen.toNat
        stOut := s.genBit (s.glen.toNat - 1), stLv := true } ∧
      ∀ b i, t.sbBit b i =
        if b = d.toNat ∧ i < s.glen.toNat then s.genBit i else s.sbBit b i

/-- 41_lfsr.md R165: when emitted bit number j, below 2^DEG, is the first equal to the symbol, LGENS
records GLEN bits from it on. -/
def Obligations.LgensStartsAtTheSymbol : Prop :=
  ∀ (z : Params) (d : BufIx) (sym : Bool) (s : Block z) (j : Nat), bufLegal z d → s.loadLegal →
    s.glenLegal →
    j < 2 ^ s.deg.toNat → s.genBit j = sym → (∀ u, u < j → s.genBit u ≠ sym) →
    ∃ t, exec (.lgens d sym) ⟨z, s⟩ = .next ⟨z, t⟩ ∧
      t = { s with
        sb := t.sb, adeg := s.deg, apoly := s.loadPoly.setWidth _, lfsr := s.genState (j + s.glen.toNat)
        stOut := s.genBit (j + s.glen.toNat - 1), stLv := true } ∧
      ∀ b i, t.sbBit b i =
        if b = d.toNat ∧ i < s.glen.toNat then s.genBit (j + i) else s.sbBit b i

/-- 41_lfsr.md R165, 60_exceptions.md R252: when none of the first 2^DEG emitted bits is the symbol,
LGENS reports SKIP_EXHAUSTED with the LFSR loaded and stepped 2^DEG times, and SB unchanged. -/
def Obligations.LgensWithoutTheSymbolIsExhausted : Prop :=
  ∀ (z : Params) (d : BufIx) (sym : Bool) (s : Block z), bufLegal z d → s.loadLegal → s.glenLegal →
    (∀ u, u < 2 ^ s.deg.toNat → s.genBit u ≠ sym) →
    exec (.lgens d sym) ⟨z, s⟩ = .next ⟨z, { s with
      adeg := s.deg, apoly := s.loadPoly.setWidth _, lfsr := s.genState (2 ^ s.deg.toNat), stOut := !sym
      stLv := true, stErr := true, errcode := 0x0A }⟩

/-- 41_lfsr.md R166: if 2^ADEG consecutive emitted bits, from any state, all differ from the symbol, every
later one does; so LGENS never reports SKIP_EXHAUSTED for a sequence that would match later. -/
def Obligations.SkipBoundIsExact : Prop :=
  (∀ (len deg : Nat) (poly st : BitVec len) (sym : Bool), 1 ≤ deg → deg ≤ len →
    poly.toNat < 2 ^ deg → st.toNat < 2 ^ deg →
    (∀ t, t < 2 ^ deg → lfsrBit deg poly st t ≠ sym) → ∀ t, lfsrBit deg poly st t ≠ sym) ∧
  (∀ (z : Params) (d : BufIx) (sym : Bool) (s t : Block z), z.ok → bufLegal z d → s.loadLegal →
    s.glenLegal → s.errcode = 0 → exec (.lgens d sym) ⟨z, s⟩ = .next ⟨z, t⟩ → t.errcode = 0x0A →
    ∀ u, s.genBit u ≠ sym)

/-- 41_lfsr.md R167: with polynomial 0 the output is the seed's bits from the top down and then zeros,
and S = 0 after ADEG steps. -/
def Obligations.ZeroPolynomialShiftsTheSeedOut : Prop :=
  ∀ z : Params, z.ok →
  ∀ (d : BufIx) (s : Block z), bufLegal z d → s.loadLegal → s.glenLegal → s.loadPoly = 0 →
    ∃ t, exec (.lgen d) ⟨z, s⟩ = .next ⟨z, t⟩ ∧
      (∀ i, i < s.glen.toNat → t.sbBit d.toNat i =
        (decide (i < s.deg.toNat) && s.seed.getLsbD (s.deg.toNat - 1 - i))) ∧
      (s.deg.toNat ≤ s.glen.toNat → t.lfsr = 0)

/-- 41_lfsr.md R168: S = 0 is a fixed point of LSTEP for every polynomial and emits 0, and a seed of 0
generates zeros. -/
def Obligations.ZeroStateStaysZero : Prop :=
  ∀ z : Params,
  (∀ s : Block z, s.stLv = true → s.lfsr = 0 →
    exec .lstep ⟨z, s⟩ = .next ⟨z, { s with stOut := false }⟩) ∧
  (∀ (d : BufIx) (s : Block z), bufLegal z d → s.loadLegal → s.glenLegal → s.seed = 0 →
    ∃ t, exec (.lgen d) ⟨z, s⟩ = .next ⟨z, t⟩ ∧ t.lfsr = 0 ∧
      ∀ i, i < s.glen.toNat → t.sbBit d.toNat i = false)

/-- 41_lfsr.md R170: w windowed shifts of a w-bit value give 0, and one never sets bit 0; so bit 0 after
an LFSR step is exactly the feedback. -/
def Obligations.WindowedShiftEmptiesTheWindow : Prop :=
  (∀ (len w : Nat) (v : BitVec len), v.toNat < 2 ^ w →
    (shlW w)^[w] v = 0 ∧ (shlW w v).getLsbD 0 = false) ∧
  (∀ (len deg : Nat) (poly st : BitVec len), (lfsrNext deg poly st).getLsbD 0 = parity (st &&& poly))

/-! ### Combiner unit -/

/-- 42_combiner.md R190 to R193: ENC writes Combine of the buffers as they were before the command,
whichever of D, A, B and C coincide; nothing else changes. -/
def Obligations.EncCombinesTheOldBuffers : Prop :=
  ∀ z : Params, z.ok →
  ∀ (d a b c : BufIx) (s : Block z), bufLegal z d → bufLegal z a → bufLegal z b → bufLegal z c →
    s.mLegal →
    ∃ t, exec (.enc d a b c) ⟨z, s⟩ = .next ⟨z, t⟩ ∧ t = { s with sb := t.sb } ∧
      ∀ b' i, t.sbBit b' i =
        if b' = d.toNat ∧ i < s.m.toNat
        then combineBit (s.sbBit a.toNat) (s.sbBit b.toNat) (s.sbBit c.toNat) i else s.sbBit b' i

/-- 42_combiner.md R194: encrypting the ciphertext with the same clock and decimated sequence restores
the plaintext. -/
def Obligations.EncTwiceRestoresThePlaintext : Prop :=
  ∀ z : Params, z.ok →
  ∀ (d e a b c : BufIx) (s : Block z), bufLegal z d → bufLegal z e → bufLegal z a → bufLegal z b →
    bufLegal z c → s.mLegal → d ≠ a → d ≠ b →
    ∃ t u, exec (.enc d a b c) ⟨z, s⟩ = .next ⟨z, t⟩ ∧ exec (.enc e a b d) ⟨z, t⟩ = .next ⟨z, u⟩ ∧
      ∀ i, i < s.m.toNat → u.sbBit e.toNat i = s.sbBit c.toNat i

/-- 60_exceptions.md R253, rows ENC, MINIT and MATCH: BAD_LENGTH for M before BAD_K before BAD_LENGTH for
N, each changing only ERR and ERRCODE. -/
def Obligations.LengthErrorsComeInOrder : Prop :=
  ∀ (z : Params) (d a b c : BufIx) (s : Block z), bufLegal z d → bufLegal z a → bufLegal z b →
    bufLegal z c →
    (¬ s.mLegal → exec (.enc d a b c) ⟨z, s⟩ = .next ⟨z, s.withError 0x06⟩ ∧
      exec (.minit a) ⟨z, s⟩ = .next ⟨z, s.withError 0x06⟩ ∧
      exec (.matchText a b) ⟨z, s⟩ = .next ⟨z, s.withError 0x06⟩) ∧
    (s.mLegal → ¬ s.kLegal → exec (.minit a) ⟨z, s⟩ = .next ⟨z, s.withError 0x07⟩ ∧
      exec (.matchText a b) ⟨z, s⟩ = .next ⟨z, s.withError 0x07⟩) ∧
    (s.mLegal → s.kLegal → ¬ s.nLegal → exec (.matchText a b) ⟨z, s⟩ = .next ⟨z, s.withError 0x06⟩)

/-! ### Matcher unit -/

/-- 43_matcher.md R211, R212, R213: MINIT latches M, K and the conventions, builds both masks from the
pattern and rows 0..K, clears position and results; rows above K and everything else keep their value. -/
def Obligations.MinitBuildsMasksAndRows : Prop :=
  ∀ (z : Params) (a : BufIx) (s : Block z), bufLegal z a → s.mLegal → s.kLegal →
    ∃ t, exec (.minit a) ⟨z, s⟩ = .next ⟨z, t⟩ ∧
      t = { s with
        am := s.m, ak := s.k, aso := s.cfgShiftOr, ains := s.cfgAllowIns
        mask0 := t.mask0, mask1 := t.mask1, row := t.row
        pos := 0, stAny := false, lastLvl := s.m, minLvl := s.m, stMv := true } ∧
      (∀ c j, (t.mask c).getLsbD j =
        (decide (j < s.m.toNat) && ((s.sbBit a.toNat j == c) != s.cfgShiftOr))) ∧
      (∀ k j, k ≤ s.k.toNat → (t.rowK k).getLsbD j =
        (decide (j < s.m.toNat) && (decide (j < k) != s.cfgShiftOr))) ∧
      (∀ k, s.k.toNat < k → t.rowK k = s.rowK k)

/-- 43_matcher.md R221, R222: the Shift-AND rows after MSTEP, bit by bit, from the rows before and, in the
insertion term, the row below after this symbol. -/
def Obligations.MstepUpdatesShiftAndRows : Prop :=
  ∀ (z : Params) (c : Bool) (s : Block z), s.stMv = true → s.matcherOk → s.pos.toNat < z.bufBits →
    s.aso = false →
    ∃ t, exec (.mstep c) ⟨z, s⟩ = .next ⟨z, t⟩ ∧
      (∀ j, (t.rowK 0).getLsbD j =
        (decide (j < s.am.toNat) && (decide (j = 0) || (s.rowK 0).getLsbD (j - 1)) &&
          (s.mask c).getLsbD j)) ∧
      (∀ k j, k < s.ak.toNat → (t.rowK (k + 1)).getLsbD j =
        ((decide (j < s.am.toNat) && (decide (j = 0) || (s.rowK (k + 1)).getLsbD (j - 1)) &&
            (s.mask c).getLsbD j) ||
          (s.rowK k).getLsbD j ||
          (s.ains && decide (j < s.am.toNat) &&
            (decide (j = 0) || (s.rowK k).getLsbD (j - 1) || (t.rowK k).getLsbD (j - 1))))) ∧
      (∀ k, s.ak.toNat < k → t.rowK k = s.rowK k)

/-- 43_matcher.md R223: the Shift-OR rows after MSTEP, bit by bit. -/
def Obligations.MstepUpdatesShiftOrRows : Prop :=
  ∀ (z : Params) (c : Bool) (s : Block z), s.stMv = true → s.matcherOk → s.pos.toNat < z.bufBits →
    s.aso = true →
    ∃ t, exec (.mstep c) ⟨z, s⟩ = .next ⟨z, t⟩ ∧
      (∀ j, (t.rowK 0).getLsbD j =
        ((decide (j < s.am.toNat) && decide (0 < j) && (s.rowK 0).getLsbD (j - 1)) ||
          (s.mask c).getLsbD j)) ∧
      (∀ k j, k < s.ak.toNat → (t.rowK (k + 1)).getLsbD j =
        (((decide (j < s.am.toNat) && decide (0 < j) && (s.rowK (k + 1)).getLsbD (j - 1)) ||
            (s.mask c).getLsbD j) &&
          (s.rowK k).getLsbD j &&
          (decide (j < s.am.toNat) &&
            (!s.ains || (decide (0 < j) && (s.rowK k).getLsbD (j - 1) &&
              (t.rowK k).getLsbD (j - 1)))))) ∧
      (∀ k, s.ak.toNat < k → t.rowK k = s.rowK k)

/-- 43_matcher.md R220, R224, R225: MSTEP records in MATCHES[P] and LASTLVL the least row of 0..AK whose
bit AM-1 has the matched polarity, or AM when row AK has not; MINLVL, ANY and P follow; every other entry
and field keeps its value. -/
def Obligations.MstepRecordsTheLevel : Prop :=
  ∀ (z : Params) (c : Bool) (s : Block z), s.stMv = true → s.matcherOk → s.pos.toNat < z.bufBits →
    ∃ (t : Block z) (lvl : Half), exec (.mstep c) ⟨z, s⟩ = .next ⟨z, t⟩ ∧
      t = { s with
        row := t.row, matchLvls := t.matchLvls, lastLvl := lvl
        minLvl := if lvl.toNat < s.minLvl.toNat then lvl else s.minLvl
        stAny := s.stAny || decide (lvl.toNat < s.am.toNat), pos := s.pos + 1 } ∧
      (∀ p, t.level p = if p = s.pos.toNat then lvl else s.level p) ∧
      (t.lit s.ak.toNat (s.am.toNat - 1) = false → lvl = s.am) ∧
      (t.lit s.ak.toNat (s.am.toNat - 1) = true →
        lvl.toNat ≤ s.ak.toNat ∧ t.lit lvl.toNat (s.am.toNat - 1) = true ∧
        ∀ k, k < lvl.toNat → t.lit k (s.am.toNat - 1) = false)

/-- 43_matcher.md R237: with nested rows the level is the least row of 0..AK that signals, or AM if none
does: the test on row AK loses no match. -/
def Obligations.LevelIsTheLeastSignallingRow : Prop :=
  ∀ (z : Params) (c : Bool) (s : Block z), s.stMv = true → s.matcherOk → s.nestedOk →
    s.pos.toNat < z.bufBits →
    ∃ t, exec (.mstep c) ⟨z, s⟩ = .next ⟨z, t⟩ ∧
      ((∀ k, k ≤ s.ak.toNat → t.lit k (s.am.toNat - 1) = false) → t.lastLvl = s.am) ∧
      (∀ k, k ≤ s.ak.toNat → t.lit k (s.am.toNat - 1) = true →
        (∀ k', k' < k → t.lit k' (s.am.toNat - 1) = false) → t.lastLvl.toNat = k)

/-- 43_matcher.md R230: MATCH equals MINIT of the pattern followed by one MSTEP for each of the N text
bits in order; it changes only matcher state. -/
def Obligations.MatchIsMinitThenMsteps : Prop :=
  ∀ z : Params, z.ok →
  ∀ (a b : BufIx) (s : Block z), bufLegal z a → bufLegal z b → s.mLegal → s.kLegal → s.nLegal →
    ∃ t0 t, exec (.minit b) ⟨z, s⟩ = .next ⟨z, t0⟩ ∧
      runMsteps ((List.range s.n.toNat).map (s.sbBit a.toNat)) ⟨z, t0⟩ = .next ⟨z, t⟩ ∧
      exec (.matchText a b) ⟨z, s⟩ = .next ⟨z, t⟩ ∧
      t = { s with
        am := s.m, ak := s.k, aso := s.cfgShiftOr, ains := s.cfgAllowIns
        mask0 := t0.mask0, mask1 := t0.mask1, row := t.row, matchLvls := t.matchLvls
        pos := s.n, stAny := t.stAny, lastLvl := t.lastLvl, minLvl := t.minLvl, stMv := true } ∧
      (∀ k, s.k.toNat < k → t.rowK k = s.rowK k) ∧
      (∀ p, s.n.toNat ≤ p → t.level p = s.level p)

/-- 43_matcher.md R235: after MINIT and any MSTEPs the Shift-OR run has complemented rows and masks and
the same levels as the Shift-AND run; one MSTEP keeps dual states dual. -/
def Obligations.ShiftOrIsTheDualOfShiftAnd : Prop :=
  ∀ z : Params, z.ok →
  (∀ (a : BufIx) (text : List Bool) (s : Block z), bufLegal z a → s.mLegal → s.kLegal →
    text.length ≤ z.bufBits →
    ∃ t u, runText a text ⟨z, { s with cfgShiftOr := false }⟩ = .next ⟨z, t⟩ ∧
      runText a text ⟨z, { s with cfgShiftOr := true }⟩ = .next ⟨z, u⟩ ∧ shiftDual t u) ∧
  (∀ (c : Bool) (s t : Block z), s.stMv = true → s.matcherOk → s.windowOk → s.pos.toNat < z.bufBits →
    shiftDual s t →
    ∃ s' t', exec (.mstep c) ⟨z, s⟩ = .next ⟨z, s'⟩ ∧ exec (.mstep c) ⟨z, t⟩ = .next ⟨z, t'⟩ ∧
      shiftDual s' t')

/-- 43_matcher.md R238: with K = 0, MATCHES[p] is 0 exactly when the M text symbols that end at p equal the
pattern, and M otherwise; row 0 signals prefix j exactly when the text ends with it. -/
def Obligations.KZeroIsExactMatching : Prop :=
  ∀ z : Params, z.ok →
  ∀ (a : BufIx) (text : List Bool) (s : Block z), bufLegal z a → s.mLegal → s.k = 0 →
    text.length ≤ z.bufBits →
    ∃ t, runText a text ⟨z, s⟩ = .next ⟨z, t⟩ ∧
      (∀ p, p < text.length →
        ((s.m.toNat ≤ p + 1 ∧ ∀ j, j < s.m.toNat →
            textBit text (p + 1 - s.m.toNat + j) = s.sbBit a.toNat j) → t.level p = 0) ∧
        (¬ (s.m.toNat ≤ p + 1 ∧ ∀ j, j < s.m.toNat →
            textBit text (p + 1 - s.m.toNat + j) = s.sbBit a.toNat j) → t.level p = s.m)) ∧
      (∀ j, j < s.m.toNat → (t.lit 0 j = true ↔ j < text.length ∧ ∀ u, u ≤ j →
        textBit text (text.length - 1 - j + u) = s.sbBit a.toNat u))

/-- 43_matcher.md R239: with a larger K rows 0..K are identical, every level below M stays exactly where it
is, and a level of M stays or falls. -/
def Obligations.LargerKKeepsEveryMatch : Prop :=
  ∀ z : Params, z.ok →
  ∀ (a : BufIx) (text : List Bool) (s : Block z) (k' : Half), bufLegal z a → s.mLegal →
    s.k.toNat ≤ k'.toNat → k'.toNat < s.m.toNat → k'.toNat ≤ z.kMax → text.length ≤ z.bufBits →
    ∃ t t', runText a text ⟨z, s⟩ = .next ⟨z, t⟩ ∧
      runText a text ⟨z, { s with k := k' }⟩ = .next ⟨z, t'⟩ ∧
      (∀ k, k ≤ s.k.toNat → t'.rowK k = t.rowK k) ∧
      ∀ p, p < text.length →
        ((t.level p).toNat < s.m.toNat → t'.level p = t.level p) ∧
        (t.level p = s.m → (t'.level p).toNat ≤ s.m.toNat)

/-- 43_matcher.md R240: MATCHES[p] is the distance of the pattern to the text ending at p where that is at
most K, and M otherwise; row k signals prefix j of the pattern exactly when its distance is at most k. -/
def Obligations.LevelMeasuresTheDistance : Prop :=
  ∀ z : Params, z.ok →
  ∀ (a : BufIx) (text : List Bool) (s : Block z), bufLegal z a → s.mLegal → s.kLegal →
    text.length ≤ z.bufBits →
    ∃ t, runText a text ⟨z, s⟩ = .next ⟨z, t⟩ ∧
      (∀ p, p < text.length → (t.level p).toNat =
        if distCol s.cfgAllowIns (s.sbBit a.toNat) (textBit text) (p + 1) s.m.toNat ≤ s.k.toNat
        then distCol s.cfgAllowIns (s.sbBit a.toNat) (textBit text) (p + 1) s.m.toNat
        else s.m.toNat) ∧
      (∀ k j, k ≤ s.k.toNat → j < s.m.toNat → t.lit k j = decide
        (distCol s.cfgAllowIns (s.sbBit a.toNat) (textBit text) text.length (j + 1) ≤ k))

/-- 43_matcher.md R241: every level is in 0..K or is M, and a level l below M at position p has
p + 1 >= M - l; so the first M - K - 1 positions always give M and level 0 needs p >= M - 1. -/
def Obligations.LevelsAreBounded : Prop :=
  ∀ z : Params, z.ok →
  ∀ (a : BufIx) (text : List Bool) (s : Block z), bufLegal z a → s.mLegal → s.kLegal →
    text.length ≤ z.bufBits →
    ∃ t, runText a text ⟨z, s⟩ = .next ⟨z, t⟩ ∧ ∀ p, p < text.length →
      ((t.level p).toNat ≤ s.k.toNat ∨ t.level p = s.m) ∧
      ((t.level p).toNat < s.m.toNat → s.m.toNat ≤ p + 1 + (t.level p).toNat) ∧
      (p + 1 + s.k.toNat < s.m.toNat → t.level p = s.m) ∧
      (t.level p = 0 → s.m.toNat ≤ p + 1)

/-- 43_matcher.md R214: after MATCH, ANY says that some position has a level below M, and MINLVL is the
least level, or M where there is none. -/
def Obligations.AnyIsTheCandidateTest : Prop :=
  ∀ z : Params, z.ok →
  ∀ (a b : BufIx) (s : Block z), bufLegal z a → bufLegal z b → s.mLegal → s.kLegal → s.nLegal →
    ∃ t, exec (.matchText a b) ⟨z, s⟩ = .next ⟨z, t⟩ ∧
      (t.stAny = true ↔ ∃ p, p < s.n.toNat ∧ (t.level p).toNat < s.m.toNat) ∧
      (∀ p, p < s.n.toNat → t.minLvl.toNat ≤ (t.level p).toNat) ∧
      (t.minLvl = s.m ∨ ∃ p, p < s.n.toNat ∧ t.level p = t.minLvl)

/-- 10_state.md R60, R65, 70_reset_and_hazards.md R289: LSTEP and MSTEP use the latched parameters only:
whatever the configuration registers hold, they do the same. -/
def Obligations.StepsUseLatchedParametersOnly : Prop :=
  ∀ (z : Params) (i : Instr) (s t : Block z) (so ai pre : Bool) (deg : BitVec 6) (poly seed : Word)
    (glen m n k : Half), (i = .lstep ∨ ∃ c, i = .mstep c) → exec i ⟨z, s⟩ = .next ⟨z, t⟩ →
    exec i ⟨z, { s with
      cfgShiftOr := so, cfgAllowIns := ai, cfgPreset := pre, deg := deg, poly := poly, seed := seed
      glen := glen, m := m, n := n, k := k }⟩ =
    .next ⟨z, { t with
      cfgShiftOr := so, cfgAllowIns := ai, cfgPreset := pre, deg := deg, poly := poly, seed := seed
      glen := glen, m := m, n := n, k := k }⟩

/-- 70_reset_and_hazards.md R290: LFSR commands and ENC neither read nor write matcher state, matcher
commands and ENC neither read nor write LFSR state: with other contents there, each does the same and
leaves them as they are. -/
def Obligations.UnitsAreIndependent : Prop :=
  ∀ (z : Params) (i : Instr) (s t : Block z), exec i ⟨z, s⟩ = .next ⟨z, t⟩ →
    ((i = .lload ∨ i = .lstep ∨ (∃ d, i = .lgen d) ∨ (∃ d sym, i = .lgens d sym) ∨
        ∃ d a b c, i = .enc d a b c) →
      ∀ (am ak pos lastLvl minLvl : Half) (aso ains mv any : Bool) (m0 m1 : Row z) (row : Rows z)
        (lvls : Levels z),
        exec i ⟨z, { s with
          am := am, ak := ak, aso := aso, ains := ains, mask0 := m0, mask1 := m1, row := row
          matchLvls := lvls, pos := pos, stMv := mv, stAny := any, lastLvl := lastLvl
          minLvl := minLvl }⟩ =
        .next ⟨z, { t with
          am := am, ak := ak, aso := aso, ains := ains, mask0 := m0, mask1 := m1, row := row
          matchLvls := lvls, pos := pos, stMv := mv, stAny := any, lastLvl := lastLvl
          minLvl := minLvl }⟩) ∧
    (((∃ a, i = .minit a) ∨ (∃ c, i = .mstep c) ∨ (∃ a b, i = .matchText a b) ∨
        ∃ d a b c, i = .enc d a b c) →
      ∀ (lfsr apoly : BitVec z.degMax) (adeg : BitVec 6) (lv out : Bool),
        exec i ⟨z, { s with lfsr := lfsr, adeg := adeg, apoly := apoly, stLv := lv, stOut := out }⟩ =
        .next ⟨z, { t with lfsr := lfsr, adeg := adeg, apoly := apoly, stLv := lv, stOut := out }⟩)

/-! ### The host port -/

/-- 20_memory.md R80: the block answers inside its window only; the model's reading that an address
outside leaves it unchanged is log 10. -/
def Obligations.OnlyTheWindowIsDecoded : Prop :=
  ∀ z : Params,
  (∀ (s : Block z) (off size : Nat) (kind : AccessKind), off < 0x4000 →
    s.hostAccess (z.base + off) size kind = s.portAccess off size kind) ∧
  (∀ (s : Block z) (addr size : Nat) (kind : AccessKind),
    (addr < z.base ∨ z.base + 0x4000 ≤ addr) →
    s.hostAccess addr size kind = { s with resp := .notDecoded })

/-- 20_memory.md R89: no read has a side effect. -/
def Obligations.ReadsHaveNoSideEffect : Prop :=
  ∀ (z : Params) (s : Block z) (addr size : Nat), ∃ r : PortResponse,
    s.hostAccess addr size .read = { s with resp := r }

/-- 20_memory.md R81, R86, R87, R88, 10_state.md R54: an access of another width or alignment, in a reserved
range, refused while BUSY, or a write of read-only state, changes nothing of the block; a refused read
returns 0. The last two clauses are the ranges of the reference configuration's table. That in another
configuration every offset above 0x050 without an array word is reserved is the model's choice: log 19. -/
def Obligations.RefusedAccessChangesNothing : Prop :=
  (∀ (z : Params) (s : Block z) (off size : Nat), z.ok → off < 0x4000 →
    (size ≠ 4 ∨ off % 4 ≠ 0 ∨ reservedAt z off ∨
      (s.stBusy = true ∧ off ≠ 0x000 ∧ off ≠ 0x004 ∧ off ≠ 0x008)) →
    s.portAccess off size .read = { s with resp := .readError 0 } ∧
    ∀ v, s.portAccess off size (.write v) = { s with resp := .writeError }) ∧
  (∀ (z : Params) (s : Block z) (off : Nat) (v : Word), z.ok →
    (off = 0x000 ∨ (0x030 ≤ off ∧ off < 0x054) ∨ ∃ a, wordAt z off a ∧ arrayReadOnly a) →
    s.portAccess off 4 (.write v) = { s with resp := .writeError }) ∧
  (∀ off, off < 0x4000 → off % 4 = 0 → (reservedAt Params.reference off ↔
    (0x054 ≤ off ∧ off < 0x400) ∨ (0x1080 ≤ off ∧ off < 0x2000) ∨ 0x2800 ≤ off)) ∧
  (∀ off, off % 4 = 0 → ((∃ a, wordAt Params.reference off a ∧ arrayReadOnly a) ↔
    (0x800 ≤ off ∧ off < 0x1080) ∨ (0x2000 ≤ off ∧ off < 0x2800)))

/-- 20_memory.md R88, 10_state.md R31 to R34: ID reads and CTRL and STATUS accesses proceed whether the block
is busy or not, and each flag stands at its bit of the STATUS word. -/
def Obligations.StatusAndControlAlwaysAnswer : Prop :=
  ∀ (z : Params) (s : Block z) (v : Word),
    s.portAccess 0x000 4 .read = { s with resp := .readData 0x42524D01 } ∧
    s.portAccess 0x004 4 .read = { s with resp := .readData (if s.ie then 1 else 0) } ∧
    s.portAccess 0x008 4 .read = { s with resp := .readData s.statusWord } ∧
    (v.getLsbD 1 = false →
      s.portAccess 0x004 4 (.write v) = { s with ie := v.getLsbD 0, resp := .writeDone }) ∧
    s.portAccess 0x008 4 (.write v) =
      { s with
        stDone := s.stDone && !v.getLsbD 1, stErr := s.stErr && !v.getLsbD 2
        errcode := if v.getLsbD 2 then 0 else s.errcode, resp := .writeDone } ∧
    ∀ i, s.statusWord.getLsbD i =
      if i = 0 then s.stBusy else if i = 1 then s.stDone else if i = 2 then s.stErr
      else if i = 3 then s.stAny else if i = 4 then s.stOut else if i = 5 then s.stLv
      else if i = 6 then s.stMv else if 8 ≤ i ∧ i < 16 then s.errcode.getLsbD (i - 8) else false

/-- 10_state.md R36 to R43, R53: a write to a configuration register stores its defined bits and nothing
else, and the register then reads back those bits with zeros above. -/
def Obligations.ConfigurationReadsBackDefinedBits : Prop :=
  ∀ (z : Params) (s : Block z) (v : Word), s.stBusy = false →
    s.portAccess 0x010 4 (.write v) = { s with
      cfgShiftOr := v.getLsbD 0, cfgAllowIns := v.getLsbD 1, cfgPreset := v.getLsbD 2
      resp := .writeDone } ∧
    s.portAccess 0x014 4 (.write v) = { s with deg := v.extractLsb' 0 6, resp := .writeDone } ∧
    s.portAccess 0x018 4 (.write v) = { s with poly := v, resp := .writeDone } ∧
    s.portAccess 0x01C 4 (.write v) = { s with seed := v, resp := .writeDone } ∧
    s.portAccess 0x020 4 (.write v) = { s with glen := v.extractLsb' 0 16, resp := .writeDone } ∧
    s.portAccess 0x024 4 (.write v) = { s with m := v.extractLsb' 0 16, resp := .writeDone } ∧
    s.portAccess 0x028 4 (.write v) = { s with n := v.extractLsb' 0 16, resp := .writeDone } ∧
    s.portAccess 0x02C 4 (.write v) = { s with k := v.extractLsb' 0 16, resp := .writeDone } ∧
    ∀ r : Nat × Nat, r ∈ [(0x010, 3), (0x014, 6), (0x018, 32), (0x01C, 32), (0x020, 16), (0x024, 16),
        (0x028, 16), (0x02C, 16)] →
      ((s.portAccess r.1 4 (.write v)).portAccess r.1 4 .read).resp =
        .readData (v &&& BitVec.ofNat 32 (2 ^ r.2 - 1))

/-- 20_memory.md R83, R87: where the map puts word w of SB[b], a read returns its 32 bits, a write sets
exactly them, and they read back; the formula puts it at 0x400 + b*(BUF_BITS/8) + 4*w, which is
0x400 + 0x80*b + 4*w in the reference configuration. -/
def Obligations.BufferWordsReadBack : Prop :=
  (∀ (z : Params) (s : Block z) (off b w : Nat) (v : Word), z.ok → s.stBusy = false →
    wordAt z off (.sb b w) →
    (∃ u : Word, s.portAccess off 4 .read = { s with resp := .readData u } ∧
      ∀ i, i < 32 → u.getLsbD i = s.sbBit b (32 * w + i)) ∧
    ∃ t, s.portAccess off 4 (.write v) = t ∧
      t = { s with sb := t.sb, resp := .writeDone } ∧
      (∀ b' i, t.sbBit b' i =
        if b' = b ∧ 32 * w ≤ i ∧ i < 32 * w + 32 then v.getLsbD (i - 32 * w) else s.sbBit b' i) ∧
      t.portAccess off 4 .read = { t with resp := .readData v }) ∧
  (∀ (z : Params) (b w : Nat), z.formulasFit → b < z.nbuf → w < z.bufBits / 32 →
    wordAt z (0x400 + b * (z.bufBits / 8) + 4 * w) (.sb b w)) ∧
  (∀ b w : Nat, b < 8 → w < 32 → wordAt Params.reference (0x400 + 0x80 * b + 4 * w) (.sb b w))

/-- What an idle host reads: CMD reads 0 (10_state.md R35); the read-only registers of the two units stand
at 0x030 to 0x050 in the order of 20_memory.md R87, zero-extended, ASO and AINS at bits 0 and 1 of AFLAGS
(10_state.md R44 to R52); and the words of masks, rows and levels hold their bits as 20_memory.md R84 and
R85 pack them, at the offsets of the map; a write of them is refused. The last three clauses are the reference configuration's table. -/
def Obligations.IdleReadsReturnTheState : Prop :=
  (∀ (z : Params) (s : Block z), s.stBusy = false →
    s.portAccess 0x00C 4 .read = { s with resp := .readData 0 } ∧
    s.portAccess 0x030 4 .read = { s with resp := .readData (s.lfsr.setWidth 32) } ∧
    s.portAccess 0x034 4 .read = { s with resp := .readData (s.adeg.setWidth 32) } ∧
    s.portAccess 0x038 4 .read = { s with resp := .readData (s.apoly.setWidth 32) } ∧
    s.portAccess 0x03C 4 .read = { s with resp := .readData (s.am.setWidth 32) } ∧
    s.portAccess 0x040 4 .read = { s with resp := .readData (s.ak.setWidth 32) } ∧
    (∃ v : Word, s.portAccess 0x044 4 .read = { s with resp := .readData v } ∧
      ∀ i, v.getLsbD i = if i = 0 then s.aso else if i = 1 then s.ains else false) ∧
    s.portAccess 0x048 4 .read = { s with resp := .readData (s.pos.setWidth 32) } ∧
    s.portAccess 0x04C 4 .read = { s with resp := .readData (s.lastLvl.setWidth 32) } ∧
    s.portAccess 0x050 4 .read = { s with resp := .readData (s.minLvl.setWidth 32) }) ∧
  (∀ (z : Params) (s : Block z) (off : Nat), z.ok → s.stBusy = false →
    (∀ (c : Bool) (w : Nat), wordAt z off (.mask c w) → ∃ v : Word,
      s.portAccess off 4 .read = { s with resp := .readData v } ∧
      ∀ t, t < 32 → v.getLsbD t = (s.mask c).getLsbD (32 * w + t)) ∧
    (∀ k w : Nat, wordAt z off (.row k w) → ∃ v : Word,
      s.portAccess off 4 .read = { s with resp := .readData v } ∧
      ∀ t, t < 32 → v.getLsbD t = (s.rowK k).getLsbD (32 * w + t)) ∧
    (∀ q : Nat, wordAt z off (.levels q) → ∃ v : Word,
      s.portAccess off 4 .read = { s with resp := .readData v } ∧
      v.extractLsb' 0 16 = s.level (2 * q) ∧ v.extractLsb' 16 16 = s.level (2 * q + 1))) ∧
  (∀ (z : Params) (s : Block z) (off : Nat) (a : ArrayWord) (v : Word), z.ok → wordAt z off a →
    arrayReadOnly a → s.portAccess off 4 (.write v) = { s with resp := .writeError }) ∧
  (∀ z : Params, z.formulasFit →
    (∀ (c : Bool) (w : Nat), w < z.mMax / 32 →
      wordAt z (0x1000 + (if c then z.mMax / 8 else 0) + 4 * w) (.mask c w)) ∧
    (∀ k w : Nat, k ≤ z.kMax → w < z.mMax / 32 →
      wordAt z (0x2000 + k * (z.mMax / 8) + 4 * w) (.row k w)) ∧
    (∀ q : Nat, q < z.bufBits / 2 → wordAt z (0x800 + 4 * q) (.levels q))) ∧
  (∀ (c : Bool) (w : Nat), w < 16 →
    wordAt Params.reference (0x1000 + (if c then 0x40 else 0) + 4 * w) (.mask c w)) ∧
  (∀ k w : Nat, k < 32 → w < 16 → wordAt Params.reference (0x2000 + 0x40 * k + 4 * w) (.row k w)) ∧
  (∀ q : Nat, q < 512 → wordAt Params.reference (0x800 + 4 * q) (.levels q))

/-! ### Reset -/

/-- 70_reset_and_hazards.md R281: a write to CTRL with SRST = 1 on an idle block resets every register and
keeps every array. -/
def Obligations.SoftResetKeepsTheArrays : Prop :=
  ∀ (z : Params) (s : Block z) (v : Word), s.stBusy = false → v.getLsbD 1 = true →
    ∃ t, s.portAccess 0x004 4 (.write v) = t ∧ t.registersAtReset ∧ t.resp = .writeDone ∧
      t.sb = s.sb ∧ t.mask0 = s.mask0 ∧ t.mask1 = s.mask1 ∧ t.row = s.row ∧
      t.matchLvls = s.matchLvls ∧ t.irq = false

/-- 70_reset_and_hazards.md R281, R282: a soft reset while a command is in flight resets every register, the
command never completes, and every array bit outside the write set of the latched word keeps its value,
whether the word decodes or not. The write set is read off the word's opcode and D field and the
registers; that a word with no legal opcode has an empty one, and one with a bad field its opcode's, is
the model's reading: log 7. What the bits inside become is a free value, and nothing here says which:
log 6. -/
def Obligations.AbandonedCommandTouchesOnlyItsWriteSet : Prop :=
  ∀ (z : Params) (s : Block z) (v : Word) (opc d : Nat), s.stBusy = true → v.getLsbD 1 = true →
    opc = (s.cmdLatch.extractLsb' 24 8).toNat → d = (s.cmdLatch.extractLsb' 20 4).toNat →
    ∃ t, s.portAccess 0x004 4 (.write v) = t ∧ t.registersAtReset ∧ t.irq = false ∧
      t.resp = .writeDone ∧
      (∀ b j, ¬ (b = d ∧
          (((opc = 0x12 ∨ opc = 0x13) ∧ j < s.glen.toNat) ∨ (opc = 0x20 ∧ j < s.m.toNat))) →
        t.sbBit b j = s.sbBit b j) ∧
      (¬ (opc = 0x30 ∨ opc = 0x32) → t.mask0 = s.mask0 ∧ t.mask1 = s.mask1) ∧
      (∀ k, ¬ (((opc = 0x30 ∨ opc = 0x32) ∧ k ≤ s.k.toNat) ∨ (opc = 0x31 ∧ k ≤ s.ak.toNat)) →
        t.rowK k = s.rowK k) ∧
      (∀ p, ¬ ((opc = 0x31 ∧ p = s.pos.toNat) ∨ (opc = 0x32 ∧ p < s.n.toNat)) →
        t.level p = s.level p)
end

