-- ==== Sys2Proof/Laws/Bits.lean ====
section
/-! SUPPORT. What the bit-vector primitives and the array accessors do, bit by bit. -/

namespace Sys2Proof.Machine

variable {z : Params}

@[simp] theorem getLsbD_ofBits (len : Nat) (f : Nat → Bool) (i : Nat) :
    (ofBits len f).getLsbD i = (decide (i < len) && f i) := by
  induction len with
  | zero => simp [ofBits]
  | succ n ih =>
    rw [ofBits, BitVec.getLsbD_cons, ih]
    by_cases h : i = n
    · simp [h]
    · have : i < n ↔ i < n + 1 := by omega
      simp [h, this]

@[simp] theorem getLsbD_ones (len w i : Nat) :
    (ones len w).getLsbD i = (decide (i < len) && decide (i < w)) := by
  simp [ones, BitVec.getLsbD_ofNat]

/-- Bit i of shl_w(v) is bit i - 1 of v inside the window, and bit 0 is 0. -/
theorem getLsbD_shlW {len : Nat} (w : Nat) (v : BitVec len) (i : Nat) :
    (shlW w v).getLsbD i =
      (decide (i < len) && decide (i < w) && decide (0 < i) && v.getLsbD (i - 1)) := by
  simp only [shlW, BitVec.getLsbD_and, BitVec.getLsbD_shiftLeft, getLsbD_ones]
  rcases i with _ | i
  · simp
  · by_cases h : i + 1 < len <;> by_cases h' : i + 1 < w <;> simp [h, h']

/-- Bit i of shl1_w(v): as shl_w(v), but bit 0 is 1. -/
theorem getLsbD_shl1W {len : Nat} (w : Nat) (v : BitVec len) (i : Nat) :
    (shl1W w v).getLsbD i =
      (decide (i < len) && (decide (i = 0) || (decide (i < w) && v.getLsbD (i - 1)))) := by
  simp only [shl1W, BitVec.getLsbD_or, getLsbD_shlW]
  rcases i with _ | i
  · simp [Nat.pos_iff_ne_zero]
  · by_cases h : i + 1 < len <;> simp [h]

@[simp] theorem getLsbD_notW {len : Nat} (w : Nat) (v : BitVec len) (i : Nat) :
    (notW w v).getLsbD i = (v.getLsbD i ^^ (decide (i < len) && decide (i < w))) := by
  simp [notW, BitVec.getLsbD_xor]

@[simp] theorem getElem_ofBits (len : Nat) (f : Nat → Bool) (i : Nat) (h : i < len) :
    (ofBits len f)[i] = f i := by
  rw [← BitVec.getLsbD_eq_getElem, getLsbD_ofBits]; simp [h]

@[simp] theorem getElem_ones (len w i : Nat) (h : i < len) : (ones len w)[i] = decide (i < w) := by
  rw [← BitVec.getLsbD_eq_getElem, getLsbD_ones]; simp [h]

@[simp] theorem getElem_notW {len : Nat} (w : Nat) (v : BitVec len) (i : Nat) (h : i < len) :
    (notW w v)[i] = (v[i] ^^ decide (i < w)) := by
  rw [← BitVec.getLsbD_eq_getElem, getLsbD_notW]; simp [h]

theorem getLsbD_packWord (f : Nat → Bool) (w t : Nat) :
    (packWord f w).getLsbD t = (decide (t < 32) && f (32 * w + t)) := by
  simp [packWord]

/-- The two entries of a word of MATCHES. -/
theorem extractLsb'_packHalves (lo hi : Half) :
    (packHalves lo hi).extractLsb' 0 16 = lo ∧ (packHalves lo hi).extractLsb' 16 16 = hi := by
  constructor <;> apply BitVec.eq_of_getLsbD_eq <;> intro i hi <;>
    rw [packHalves, BitVec.getLsbD_extractLsb', BitVec.getLsbD_append]
  · rw [if_pos (by omega)]; simp [hi]
  · rw [if_neg (by omega)]; simp [hi]

@[simp] theorem getElem?_vecOf {α : Type} (n : Nat) (f : Nat → α) (i : Nat) :
    (vecOf n f)[i]? = if i < n then some (f i) else none := by
  rw [vecOf, Vector.getElem?_mk]
  simp
  split <;> simp_all

/-- Reading a bit of the buffers after a bit of them is written. -/
theorem sbBit_setSbBit (s : Block z) (b i : Nat) (v : Bool) (b' i' : Nat) :
    (s.setSbBit b i v).sbBit b' i' =
      if b' = b ∧ i' = i ∧ b < z.nbuf ∧ i < z.bufBits then v else s.sbBit b' i' := by
  simp only [Block.setSbBit, Block.sbBit, setBufBit, Vector.getElem?_setIfInBounds]
  by_cases hb : b = b'
  · subst hb
    by_cases hn : b < z.nbuf
    · simp only [hn, if_true, Option.bind_some, Vector.getElem?_setIfInBounds]
      by_cases hi : i = i'
      · subst hi
        by_cases hl : i < z.bufBits
        · simp [hl]
        · simp [hl, hn]
      · have : ¬ i' = i := fun h => hi h.symm
        simp [hi, this, hn]
    · simp [hn]
  · have : ¬ b' = b := fun h => hb h.symm
    simp [hb, this]

/-- A buffer bit that does not exist reads 0. -/
theorem sbBit_out (s : Block z) (b i : Nat) (h : ¬ (b < z.nbuf ∧ i < z.bufBits)) :
    s.sbBit b i = false := by
  simp only [Block.sbBit]
  by_cases hb : b < z.nbuf
  · have hi : ¬ i < z.bufBits := fun hi => h ⟨hb, hi⟩
    simp [hb, Vector.getElem?_eq_none (Nat.le_of_not_lt hi)]
  · simp [Vector.getElem?_eq_none (Nat.le_of_not_lt hb)]

/-- Two buffer banks with equal bits are equal. -/
theorem sb_ext {s t : Block z} (h : ∀ b i, s.sbBit b i = t.sbBit b i) : s.sb = t.sb := by
  ext b hb i hi
  have := h b i
  simpa [Block.sbBit, hb, hi] using this

/-- Reading an entry of MATCHES after an entry is written. -/
theorem level_setLevel (s : Block z) (p : Nat) (v : Half) (q : Nat) :
    (s.setLevel p v).level q = if q = p ∧ p < z.bufBits then v else s.level q := by
  simp only [Block.setLevel, Block.level, Vector.getElem?_setIfInBounds]
  by_cases h : p = q
  · subst h
    by_cases hp : p < z.bufBits
    · simp [hp]
    · simp [hp]
  · have : ¬ q = p := fun h' => h h'.symm
    simp [h, this]

/-- Reading a row of a bank after a row is written. -/
theorem rowAt_set (r : Rows z) (k : Nat) (v : Row z) (j : Nat) :
    rowAt (r.setIfInBounds k v) j = if j = k ∧ k < z.kMax + 1 then v else rowAt r j := by
  simp only [rowAt, Vector.getElem?_setIfInBounds]
  by_cases h : k = j
  · subst h
    by_cases hp : k < z.kMax + 1
    · simp [hp]
    · simp [hp]
  · have : ¬ j = k := fun h' => h h'.symm
    simp [h, this]

/-- A row that does not exist reads 0. -/
theorem rowAt_out (r : Rows z) (k : Nat) (h : z.kMax < k) : rowAt r k = 0 := by
  simp [rowAt, Vector.getElem?_eq_none (show z.kMax + 1 ≤ k from h)]

/-- A row of a bank given by a function. -/
theorem rowAt_vecOf (f : Nat → Row z) (k : Nat) :
    rowAt (vecOf (z.kMax + 1) f) k = if k ≤ z.kMax then f k else 0 := by
  simp only [rowAt, getElem?_vecOf, Nat.lt_succ_iff]
  split <;> simp

/-- Two banks of rows with equal rows are equal. -/
theorem rows_ext {r r' : Rows z} (h : ∀ k, rowAt r k = rowAt r' k) : r = r' := by
  ext k hk i hi
  have := h k
  simp only [rowAt, Vector.getElem?_eq_getElem hk, Option.getD_some] at this
  rw [this]

end Sys2Proof.Machine
end

