-- ==== Sys2Proof/Laws/State.lean ====
section
/-! SUPPORT. What each named update does to each field of the block: one lemma a field, true by unfolding. -/

namespace Sys2Proof.Machine

variable {z : Params}

/-! ### The issue of a command -/

@[simp] theorem Block.issue_cmdLatch (s : Block z) (v : Word) : (s.issue v).cmdLatch = v := rfl
@[simp] theorem Block.issue_stBusy (s : Block z) (v : Word) : (s.issue v).stBusy = true := rfl
@[simp] theorem Block.issue_stDone (s : Block z) (v : Word) : (s.issue v).stDone = false := rfl
@[simp] theorem Block.issue_stErr (s : Block z) (v : Word) : (s.issue v).stErr = false := rfl
@[simp] theorem Block.issue_stAny (s : Block z) (v : Word) : (s.issue v).stAny = s.stAny := rfl
@[simp] theorem Block.issue_stOut (s : Block z) (v : Word) : (s.issue v).stOut = s.stOut := rfl
@[simp] theorem Block.issue_stLv (s : Block z) (v : Word) : (s.issue v).stLv = s.stLv := rfl
@[simp] theorem Block.issue_stMv (s : Block z) (v : Word) : (s.issue v).stMv = s.stMv := rfl
@[simp] theorem Block.issue_errcode (s : Block z) (v : Word) : (s.issue v).errcode = 0 := rfl
@[simp] theorem Block.issue_ie (s : Block z) (v : Word) : (s.issue v).ie = s.ie := rfl
@[simp] theorem Block.issue_cfgShiftOr (s : Block z) (v : Word) :
    (s.issue v).cfgShiftOr = s.cfgShiftOr := rfl
@[simp] theorem Block.issue_cfgAllowIns (s : Block z) (v : Word) :
    (s.issue v).cfgAllowIns = s.cfgAllowIns := rfl
@[simp] theorem Block.issue_cfgPreset (s : Block z) (v : Word) :
    (s.issue v).cfgPreset = s.cfgPreset := rfl
@[simp] theorem Block.issue_deg (s : Block z) (v : Word) : (s.issue v).deg = s.deg := rfl
@[simp] theorem Block.issue_poly (s : Block z) (v : Word) : (s.issue v).poly = s.poly := rfl
@[simp] theorem Block.issue_seed (s : Block z) (v : Word) : (s.issue v).seed = s.seed := rfl
@[simp] theorem Block.issue_glen (s : Block z) (v : Word) : (s.issue v).glen = s.glen := rfl
@[simp] theorem Block.issue_m (s : Block z) (v : Word) : (s.issue v).m = s.m := rfl
@[simp] theorem Block.issue_n (s : Block z) (v : Word) : (s.issue v).n = s.n := rfl
@[simp] theorem Block.issue_k (s : Block z) (v : Word) : (s.issue v).k = s.k := rfl
@[simp] theorem Block.issue_lfsr (s : Block z) (v : Word) : (s.issue v).lfsr = s.lfsr := rfl
@[simp] theorem Block.issue_adeg (s : Block z) (v : Word) : (s.issue v).adeg = s.adeg := rfl
@[simp] theorem Block.issue_apoly (s : Block z) (v : Word) : (s.issue v).apoly = s.apoly := rfl
@[simp] theorem Block.issue_am (s : Block z) (v : Word) : (s.issue v).am = s.am := rfl
@[simp] theorem Block.issue_ak (s : Block z) (v : Word) : (s.issue v).ak = s.ak := rfl
@[simp] theorem Block.issue_aso (s : Block z) (v : Word) : (s.issue v).aso = s.aso := rfl
@[simp] theorem Block.issue_ains (s : Block z) (v : Word) : (s.issue v).ains = s.ains := rfl
@[simp] theorem Block.issue_pos (s : Block z) (v : Word) : (s.issue v).pos = s.pos := rfl
@[simp] theorem Block.issue_lastLvl (s : Block z) (v : Word) :
    (s.issue v).lastLvl = s.lastLvl := rfl
@[simp] theorem Block.issue_minLvl (s : Block z) (v : Word) : (s.issue v).minLvl = s.minLvl := rfl
@[simp] theorem Block.issue_sb (s : Block z) (v : Word) : (s.issue v).sb = s.sb := rfl
@[simp] theorem Block.issue_mask0 (s : Block z) (v : Word) : (s.issue v).mask0 = s.mask0 := rfl
@[simp] theorem Block.issue_mask1 (s : Block z) (v : Word) : (s.issue v).mask1 = s.mask1 := rfl
@[simp] theorem Block.issue_row (s : Block z) (v : Word) : (s.issue v).row = s.row := rfl
@[simp] theorem Block.issue_matchLvls (s : Block z) (v : Word) :
    (s.issue v).matchLvls = s.matchLvls := rfl
@[simp] theorem Block.issue_inbox (s : Block z) (v : Word) : (s.issue v).inbox = s.inbox := rfl
@[simp] theorem Block.issue_resp (s : Block z) (v : Word) : (s.issue v).resp = s.resp := rfl
@[simp] theorem Block.issue_draws (s : Block z) (v : Word) : (s.issue v).draws = s.draws := rfl

/-! ### A command error -/

@[simp] theorem Block.cmdError_cmdLatch (s : Block z) (e : CmdErr) :
    (s.cmdError e).cmdLatch = s.cmdLatch := rfl
@[simp] theorem Block.cmdError_stBusy (s : Block z) (e : CmdErr) :
    (s.cmdError e).stBusy = s.stBusy := rfl
@[simp] theorem Block.cmdError_stDone (s : Block z) (e : CmdErr) :
    (s.cmdError e).stDone = s.stDone := rfl
@[simp] theorem Block.cmdError_stErr (s : Block z) (e : CmdErr) : (s.cmdError e).stErr = true := rfl
@[simp] theorem Block.cmdError_stAny (s : Block z) (e : CmdErr) :
    (s.cmdError e).stAny = s.stAny := rfl
@[simp] theorem Block.cmdError_stOut (s : Block z) (e : CmdErr) :
    (s.cmdError e).stOut = s.stOut := rfl
@[simp] theorem Block.cmdError_stLv (s : Block z) (e : CmdErr) : (s.cmdError e).stLv = s.stLv := rfl
@[simp] theorem Block.cmdError_stMv (s : Block z) (e : CmdErr) : (s.cmdError e).stMv = s.stMv := rfl
@[simp] theorem Block.cmdError_errcode (s : Block z) (e : CmdErr) :
    (s.cmdError e).errcode = errCode e := rfl
@[simp] theorem Block.cmdError_ie (s : Block z) (e : CmdErr) : (s.cmdError e).ie = s.ie := rfl
@[simp] theorem Block.cmdError_cfgShiftOr (s : Block z) (e : CmdErr) :
    (s.cmdError e).cfgShiftOr = s.cfgShiftOr := rfl
@[simp] theorem Block.cmdError_cfgAllowIns (s : Block z) (e : CmdErr) :
    (s.cmdError e).cfgAllowIns = s.cfgAllowIns := rfl
@[simp] theorem Block.cmdError_cfgPreset (s : Block z) (e : CmdErr) :
    (s.cmdError e).cfgPreset = s.cfgPreset := rfl
@[simp] theorem Block.cmdError_deg (s : Block z) (e : CmdErr) : (s.cmdError e).deg = s.deg := rfl
@[simp] theorem Block.cmdError_poly (s : Block z) (e : CmdErr) : (s.cmdError e).poly = s.poly := rfl
@[simp] theorem Block.cmdError_seed (s : Block z) (e : CmdErr) : (s.cmdError e).seed = s.seed := rfl
@[simp] theorem Block.cmdError_glen (s : Block z) (e : CmdErr) : (s.cmdError e).glen = s.glen := rfl
@[simp] theorem Block.cmdError_m (s : Block z) (e : CmdErr) : (s.cmdError e).m = s.m := rfl
@[simp] theorem Block.cmdError_n (s : Block z) (e : CmdErr) : (s.cmdError e).n = s.n := rfl
@[simp] theorem Block.cmdError_k (s : Block z) (e : CmdErr) : (s.cmdError e).k = s.k := rfl
@[simp] theorem Block.cmdError_lfsr (s : Block z) (e : CmdErr) : (s.cmdError e).lfsr = s.lfsr := rfl
@[simp] theorem Block.cmdError_adeg (s : Block z) (e : CmdErr) : (s.cmdError e).adeg = s.adeg := rfl
@[simp] theorem Block.cmdError_apoly (s : Block z) (e : CmdErr) :
    (s.cmdError e).apoly = s.apoly := rfl
@[simp] theorem Block.cmdError_am (s : Block z) (e : CmdErr) : (s.cmdError e).am = s.am := rfl
@[simp] theorem Block.cmdError_ak (s : Block z) (e : CmdErr) : (s.cmdError e).ak = s.ak := rfl
@[simp] theorem Block.cmdError_aso (s : Block z) (e : CmdErr) : (s.cmdError e).aso = s.aso := rfl
@[simp] theorem Block.cmdError_ains (s : Block z) (e : CmdErr) : (s.cmdError e).ains = s.ains := rfl
@[simp] theorem Block.cmdError_pos (s : Block z) (e : CmdErr) : (s.cmdError e).pos = s.pos := rfl
@[simp] theorem Block.cmdError_lastLvl (s : Block z) (e : CmdErr) :
    (s.cmdError e).lastLvl = s.lastLvl := rfl
@[simp] theorem Block.cmdError_minLvl (s : Block z) (e : CmdErr) :
    (s.cmdError e).minLvl = s.minLvl := rfl
@[simp] theorem Block.cmdError_sb (s : Block z) (e : CmdErr) : (s.cmdError e).sb = s.sb := rfl
@[simp] theorem Block.cmdError_mask0 (s : Block z) (e : CmdErr) :
    (s.cmdError e).mask0 = s.mask0 := rfl
@[simp] theorem Block.cmdError_mask1 (s : Block z) (e : CmdErr) :
    (s.cmdError e).mask1 = s.mask1 := rfl
@[simp] theorem Block.cmdError_row (s : Block z) (e : CmdErr) : (s.cmdError e).row = s.row := rfl
@[simp] theorem Block.cmdError_matchLvls (s : Block z) (e : CmdErr) :
    (s.cmdError e).matchLvls = s.matchLvls := rfl
@[simp] theorem Block.cmdError_inbox (s : Block z) (e : CmdErr) :
    (s.cmdError e).inbox = s.inbox := rfl
@[simp] theorem Block.cmdError_resp (s : Block z) (e : CmdErr) : (s.cmdError e).resp = s.resp := rfl
@[simp] theorem Block.cmdError_draws (s : Block z) (e : CmdErr) :
    (s.cmdError e).draws = s.draws := rfl

/-! ### Completion -/

@[simp] theorem Block.finish_cmdLatch (s : Block z) : (s.finish).cmdLatch = s.cmdLatch := rfl
@[simp] theorem Block.finish_stBusy (s : Block z) : (s.finish).stBusy = false := rfl
@[simp] theorem Block.finish_stDone (s : Block z) : (s.finish).stDone = true := rfl
@[simp] theorem Block.finish_stErr (s : Block z) : (s.finish).stErr = s.stErr := rfl
@[simp] theorem Block.finish_stAny (s : Block z) : (s.finish).stAny = s.stAny := rfl
@[simp] theorem Block.finish_stOut (s : Block z) : (s.finish).stOut = s.stOut := rfl
@[simp] theorem Block.finish_stLv (s : Block z) : (s.finish).stLv = s.stLv := rfl
@[simp] theorem Block.finish_stMv (s : Block z) : (s.finish).stMv = s.stMv := rfl
@[simp] theorem Block.finish_errcode (s : Block z) : (s.finish).errcode = s.errcode := rfl
@[simp] theorem Block.finish_ie (s : Block z) : (s.finish).ie = s.ie := rfl
@[simp] theorem Block.finish_cfgShiftOr (s : Block z) : (s.finish).cfgShiftOr = s.cfgShiftOr := rfl
@[simp] theorem Block.finish_cfgAllowIns (s : Block z) :
    (s.finish).cfgAllowIns = s.cfgAllowIns := rfl
@[simp] theorem Block.finish_cfgPreset (s : Block z) : (s.finish).cfgPreset = s.cfgPreset := rfl
@[simp] theorem Block.finish_deg (s : Block z) : (s.finish).deg = s.deg := rfl
@[simp] theorem Block.finish_poly (s : Block z) : (s.finish).poly = s.poly := rfl
@[simp] theorem Block.finish_seed (s : Block z) : (s.finish).seed = s.seed := rfl
@[simp] theorem Block.finish_glen (s : Block z) : (s.finish).glen = s.glen := rfl
@[simp] theorem Block.finish_m (s : Block z) : (s.finish).m = s.m := rfl
@[simp] theorem Block.finish_n (s : Block z) : (s.finish).n = s.n := rfl
@[simp] theorem Block.finish_k (s : Block z) : (s.finish).k = s.k := rfl
@[simp] theorem Block.finish_lfsr (s : Block z) : (s.finish).lfsr = s.lfsr := rfl
@[simp] theorem Block.finish_adeg (s : Block z) : (s.finish).adeg = s.adeg := rfl
@[simp] theorem Block.finish_apoly (s : Block z) : (s.finish).apoly = s.apoly := rfl
@[simp] theorem Block.finish_am (s : Block z) : (s.finish).am = s.am := rfl
@[simp] theorem Block.finish_ak (s : Block z) : (s.finish).ak = s.ak := rfl
@[simp] theorem Block.finish_aso (s : Block z) : (s.finish).aso = s.aso := rfl
@[simp] theorem Block.finish_ains (s : Block z) : (s.finish).ains = s.ains := rfl
@[simp] theorem Block.finish_pos (s : Block z) : (s.finish).pos = s.pos := rfl
@[simp] theorem Block.finish_lastLvl (s : Block z) : (s.finish).lastLvl = s.lastLvl := rfl
@[simp] theorem Block.finish_minLvl (s : Block z) : (s.finish).minLvl = s.minLvl := rfl
@[simp] theorem Block.finish_sb (s : Block z) : (s.finish).sb = s.sb := rfl
@[simp] theorem Block.finish_mask0 (s : Block z) : (s.finish).mask0 = s.mask0 := rfl
@[simp] theorem Block.finish_mask1 (s : Block z) : (s.finish).mask1 = s.mask1 := rfl
@[simp] theorem Block.finish_row (s : Block z) : (s.finish).row = s.row := rfl
@[simp] theorem Block.finish_matchLvls (s : Block z) : (s.finish).matchLvls = s.matchLvls := rfl
@[simp] theorem Block.finish_inbox (s : Block z) : (s.finish).inbox = s.inbox := rfl
@[simp] theorem Block.finish_resp (s : Block z) : (s.finish).resp = s.resp := rfl
@[simp] theorem Block.finish_draws (s : Block z) : (s.finish).draws = s.draws := rfl

/-! ### A write to STATUS -/

@[simp] theorem Block.writeStatus_cmdLatch (s : Block z) (v : Word) :
    (s.writeStatus v).cmdLatch = s.cmdLatch := rfl
@[simp] theorem Block.writeStatus_stBusy (s : Block z) (v : Word) :
    (s.writeStatus v).stBusy = s.stBusy := rfl
@[simp] theorem Block.writeStatus_stDone (s : Block z) (v : Word) :
    (s.writeStatus v).stDone = (s.stDone && !v.getLsbD 1) := rfl
@[simp] theorem Block.writeStatus_stErr (s : Block z) (v : Word) :
    (s.writeStatus v).stErr = (s.stErr && !v.getLsbD 2) := rfl
@[simp] theorem Block.writeStatus_stAny (s : Block z) (v : Word) :
    (s.writeStatus v).stAny = s.stAny := rfl
@[simp] theorem Block.writeStatus_stOut (s : Block z) (v : Word) :
    (s.writeStatus v).stOut = s.stOut := rfl
@[simp] theorem Block.writeStatus_stLv (s : Block z) (v : Word) :
    (s.writeStatus v).stLv = s.stLv := rfl
@[simp] theorem Block.writeStatus_stMv (s : Block z) (v : Word) :
    (s.writeStatus v).stMv = s.stMv := rfl
@[simp] theorem Block.writeStatus_errcode (s : Block z) (v : Word) :
    (s.writeStatus v).errcode = (if v.getLsbD 2 then 0 else s.errcode) := rfl
@[simp] theorem Block.writeStatus_ie (s : Block z) (v : Word) : (s.writeStatus v).ie = s.ie := rfl
@[simp] theorem Block.writeStatus_cfgShiftOr (s : Block z) (v : Word) :
    (s.writeStatus v).cfgShiftOr = s.cfgShiftOr := rfl
@[simp] theorem Block.writeStatus_cfgAllowIns (s : Block z) (v : Word) :
    (s.writeStatus v).cfgAllowIns = s.cfgAllowIns := rfl
@[simp] theorem Block.writeStatus_cfgPreset (s : Block z) (v : Word) :
    (s.writeStatus v).cfgPreset = s.cfgPreset := rfl
@[simp] theorem Block.writeStatus_deg (s : Block z) (v : Word) :
    (s.writeStatus v).deg = s.deg := rfl
@[simp] theorem Block.writeStatus_poly (s : Block z) (v : Word) :
    (s.writeStatus v).poly = s.poly := rfl
@[simp] theorem Block.writeStatus_seed (s : Block z) (v : Word) :
    (s.writeStatus v).seed = s.seed := rfl
@[simp] theorem Block.writeStatus_glen (s : Block z) (v : Word) :
    (s.writeStatus v).glen = s.glen := rfl
@[simp] theorem Block.writeStatus_m (s : Block z) (v : Word) : (s.writeStatus v).m = s.m := rfl
@[simp] theorem Block.writeStatus_n (s : Block z) (v : Word) : (s.writeStatus v).n = s.n := rfl
@[simp] theorem Block.writeStatus_k (s : Block z) (v : Word) : (s.writeStatus v).k = s.k := rfl
@[simp] theorem Block.writeStatus_lfsr (s : Block z) (v : Word) :
    (s.writeStatus v).lfsr = s.lfsr := rfl
@[simp] theorem Block.writeStatus_adeg (s : Block z) (v : Word) :
    (s.writeStatus v).adeg = s.adeg := rfl
@[simp] theorem Block.writeStatus_apoly (s : Block z) (v : Word) :
    (s.writeStatus v).apoly = s.apoly := rfl
@[simp] theorem Block.writeStatus_am (s : Block z) (v : Word) : (s.writeStatus v).am = s.am := rfl
@[simp] theorem Block.writeStatus_ak (s : Block z) (v : Word) : (s.writeStatus v).ak = s.ak := rfl
@[simp] theorem Block.writeStatus_aso (s : Block z) (v : Word) :
    (s.writeStatus v).aso = s.aso := rfl
@[simp] theorem Block.writeStatus_ains (s : Block z) (v : Word) :
    (s.writeStatus v).ains = s.ains := rfl
@[simp] theorem Block.writeStatus_pos (s : Block z) (v : Word) :
    (s.writeStatus v).pos = s.pos := rfl
@[simp] theorem Block.writeStatus_lastLvl (s : Block z) (v : Word) :
    (s.writeStatus v).lastLvl = s.lastLvl := rfl
@[simp] theorem Block.writeStatus_minLvl (s : Block z) (v : Word) :
    (s.writeStatus v).minLvl = s.minLvl := rfl
@[simp] theorem Block.writeStatus_sb (s : Block z) (v : Word) : (s.writeStatus v).sb = s.sb := rfl
@[simp] theorem Block.writeStatus_mask0 (s : Block z) (v : Word) :
    (s.writeStatus v).mask0 = s.mask0 := rfl
@[simp] theorem Block.writeStatus_mask1 (s : Block z) (v : Word) :
    (s.writeStatus v).mask1 = s.mask1 := rfl
@[simp] theorem Block.writeStatus_row (s : Block z) (v : Word) :
    (s.writeStatus v).row = s.row := rfl
@[simp] theorem Block.writeStatus_matchLvls (s : Block z) (v : Word) :
    (s.writeStatus v).matchLvls = s.matchLvls := rfl
@[simp] theorem Block.writeStatus_inbox (s : Block z) (v : Word) :
    (s.writeStatus v).inbox = s.inbox := rfl
@[simp] theorem Block.writeStatus_resp (s : Block z) (v : Word) :
    (s.writeStatus v).resp = s.resp := rfl
@[simp] theorem Block.writeStatus_draws (s : Block z) (v : Word) :
    (s.writeStatus v).draws = s.draws := rfl

/-! ### One LFSR step -/

@[simp] theorem Block.lfsrStep_cmdLatch (s : Block z) : (s.lfsrStep).cmdLatch = s.cmdLatch := rfl
@[simp] theorem Block.lfsrStep_stBusy (s : Block z) : (s.lfsrStep).stBusy = s.stBusy := rfl
@[simp] theorem Block.lfsrStep_stDone (s : Block z) : (s.lfsrStep).stDone = s.stDone := rfl
@[simp] theorem Block.lfsrStep_stErr (s : Block z) : (s.lfsrStep).stErr = s.stErr := rfl
@[simp] theorem Block.lfsrStep_stAny (s : Block z) : (s.lfsrStep).stAny = s.stAny := rfl
@[simp] theorem Block.lfsrStep_stOut (s : Block z) :
    (s.lfsrStep).stOut = lfsrOut s.adeg.toNat s.lfsr := rfl
@[simp] theorem Block.lfsrStep_stLv (s : Block z) : (s.lfsrStep).stLv = s.stLv := rfl
@[simp] theorem Block.lfsrStep_stMv (s : Block z) : (s.lfsrStep).stMv = s.stMv := rfl
@[simp] theorem Block.lfsrStep_errcode (s : Block z) : (s.lfsrStep).errcode = s.errcode := rfl
@[simp] theorem Block.lfsrStep_ie (s : Block z) : (s.lfsrStep).ie = s.ie := rfl
@[simp] theorem Block.lfsrStep_cfgShiftOr (s : Block z) :
    (s.lfsrStep).cfgShiftOr = s.cfgShiftOr := rfl
@[simp] theorem Block.lfsrStep_cfgAllowIns (s : Block z) :
    (s.lfsrStep).cfgAllowIns = s.cfgAllowIns := rfl
@[simp] theorem Block.lfsrStep_cfgPreset (s : Block z) : (s.lfsrStep).cfgPreset = s.cfgPreset := rfl
@[simp] theorem Block.lfsrStep_deg (s : Block z) : (s.lfsrStep).deg = s.deg := rfl
@[simp] theorem Block.lfsrStep_poly (s : Block z) : (s.lfsrStep).poly = s.poly := rfl
@[simp] theorem Block.lfsrStep_seed (s : Block z) : (s.lfsrStep).seed = s.seed := rfl
@[simp] theorem Block.lfsrStep_glen (s : Block z) : (s.lfsrStep).glen = s.glen := rfl
@[simp] theorem Block.lfsrStep_m (s : Block z) : (s.lfsrStep).m = s.m := rfl
@[simp] theorem Block.lfsrStep_n (s : Block z) : (s.lfsrStep).n = s.n := rfl
@[simp] theorem Block.lfsrStep_k (s : Block z) : (s.lfsrStep).k = s.k := rfl
@[simp] theorem Block.lfsrStep_lfsr (s : Block z) :
    (s.lfsrStep).lfsr = lfsrNext s.adeg.toNat s.apoly s.lfsr := rfl
@[simp] theorem Block.lfsrStep_adeg (s : Block z) : (s.lfsrStep).adeg = s.adeg := rfl
@[simp] theorem Block.lfsrStep_apoly (s : Block z) : (s.lfsrStep).apoly = s.apoly := rfl
@[simp] theorem Block.lfsrStep_am (s : Block z) : (s.lfsrStep).am = s.am := rfl
@[simp] theorem Block.lfsrStep_ak (s : Block z) : (s.lfsrStep).ak = s.ak := rfl
@[simp] theorem Block.lfsrStep_aso (s : Block z) : (s.lfsrStep).aso = s.aso := rfl
@[simp] theorem Block.lfsrStep_ains (s : Block z) : (s.lfsrStep).ains = s.ains := rfl
@[simp] theorem Block.lfsrStep_pos (s : Block z) : (s.lfsrStep).pos = s.pos := rfl
@[simp] theorem Block.lfsrStep_lastLvl (s : Block z) : (s.lfsrStep).lastLvl = s.lastLvl := rfl
@[simp] theorem Block.lfsrStep_minLvl (s : Block z) : (s.lfsrStep).minLvl = s.minLvl := rfl
@[simp] theorem Block.lfsrStep_sb (s : Block z) : (s.lfsrStep).sb = s.sb := rfl
@[simp] theorem Block.lfsrStep_mask0 (s : Block z) : (s.lfsrStep).mask0 = s.mask0 := rfl
@[simp] theorem Block.lfsrStep_mask1 (s : Block z) : (s.lfsrStep).mask1 = s.mask1 := rfl
@[simp] theorem Block.lfsrStep_row (s : Block z) : (s.lfsrStep).row = s.row := rfl
@[simp] theorem Block.lfsrStep_matchLvls (s : Block z) : (s.lfsrStep).matchLvls = s.matchLvls := rfl
@[simp] theorem Block.lfsrStep_inbox (s : Block z) : (s.lfsrStep).inbox = s.inbox := rfl
@[simp] theorem Block.lfsrStep_resp (s : Block z) : (s.lfsrStep).resp = s.resp := rfl
@[simp] theorem Block.lfsrStep_draws (s : Block z) : (s.lfsrStep).draws = s.draws := rfl

/-! ### An LFSR load -/

@[simp] theorem Block.lfsrLoad_cmdLatch (s : Block z) : (s.lfsrLoad).cmdLatch = s.cmdLatch := rfl
@[simp] theorem Block.lfsrLoad_stBusy (s : Block z) : (s.lfsrLoad).stBusy = s.stBusy := rfl
@[simp] theorem Block.lfsrLoad_stDone (s : Block z) : (s.lfsrLoad).stDone = s.stDone := rfl
@[simp] theorem Block.lfsrLoad_stErr (s : Block z) : (s.lfsrLoad).stErr = s.stErr := rfl
@[simp] theorem Block.lfsrLoad_stAny (s : Block z) : (s.lfsrLoad).stAny = s.stAny := rfl
@[simp] theorem Block.lfsrLoad_stOut (s : Block z) : (s.lfsrLoad).stOut = s.stOut := rfl
@[simp] theorem Block.lfsrLoad_stLv (s : Block z) : (s.lfsrLoad).stLv = true := rfl
@[simp] theorem Block.lfsrLoad_stMv (s : Block z) : (s.lfsrLoad).stMv = s.stMv := rfl
@[simp] theorem Block.lfsrLoad_errcode (s : Block z) : (s.lfsrLoad).errcode = s.errcode := rfl
@[simp] theorem Block.lfsrLoad_ie (s : Block z) : (s.lfsrLoad).ie = s.ie := rfl
@[simp] theorem Block.lfsrLoad_cfgShiftOr (s : Block z) :
    (s.lfsrLoad).cfgShiftOr = s.cfgShiftOr := rfl
@[simp] theorem Block.lfsrLoad_cfgAllowIns (s : Block z) :
    (s.lfsrLoad).cfgAllowIns = s.cfgAllowIns := rfl
@[simp] theorem Block.lfsrLoad_cfgPreset (s : Block z) : (s.lfsrLoad).cfgPreset = s.cfgPreset := rfl
@[simp] theorem Block.lfsrLoad_deg (s : Block z) : (s.lfsrLoad).deg = s.deg := rfl
@[simp] theorem Block.lfsrLoad_poly (s : Block z) : (s.lfsrLoad).poly = s.poly := rfl
@[simp] theorem Block.lfsrLoad_seed (s : Block z) : (s.lfsrLoad).seed = s.seed := rfl
@[simp] theorem Block.lfsrLoad_glen (s : Block z) : (s.lfsrLoad).glen = s.glen := rfl
@[simp] theorem Block.lfsrLoad_m (s : Block z) : (s.lfsrLoad).m = s.m := rfl
@[simp] theorem Block.lfsrLoad_n (s : Block z) : (s.lfsrLoad).n = s.n := rfl
@[simp] theorem Block.lfsrLoad_k (s : Block z) : (s.lfsrLoad).k = s.k := rfl
@[simp] theorem Block.lfsrLoad_lfsr (s : Block z) :
    (s.lfsrLoad).lfsr = s.seed.setWidth z.degMax := rfl
@[simp] theorem Block.lfsrLoad_adeg (s : Block z) : (s.lfsrLoad).adeg = s.deg := rfl
@[simp] theorem Block.lfsrLoad_apoly (s : Block z) :
    (s.lfsrLoad).apoly = s.effPoly.setWidth z.degMax := rfl
@[simp] theorem Block.lfsrLoad_am (s : Block z) : (s.lfsrLoad).am = s.am := rfl
@[simp] theorem Block.lfsrLoad_ak (s : Block z) : (s.lfsrLoad).ak = s.ak := rfl
@[simp] theorem Block.lfsrLoad_aso (s : Block z) : (s.lfsrLoad).aso = s.aso := rfl
@[simp] theorem Block.lfsrLoad_ains (s : Block z) : (s.lfsrLoad).ains = s.ains := rfl
@[simp] theorem Block.lfsrLoad_pos (s : Block z) : (s.lfsrLoad).pos = s.pos := rfl
@[simp] theorem Block.lfsrLoad_lastLvl (s : Block z) : (s.lfsrLoad).lastLvl = s.lastLvl := rfl
@[simp] theorem Block.lfsrLoad_minLvl (s : Block z) : (s.lfsrLoad).minLvl = s.minLvl := rfl
@[simp] theorem Block.lfsrLoad_sb (s : Block z) : (s.lfsrLoad).sb = s.sb := rfl
@[simp] theorem Block.lfsrLoad_mask0 (s : Block z) : (s.lfsrLoad).mask0 = s.mask0 := rfl
@[simp] theorem Block.lfsrLoad_mask1 (s : Block z) : (s.lfsrLoad).mask1 = s.mask1 := rfl
@[simp] theorem Block.lfsrLoad_row (s : Block z) : (s.lfsrLoad).row = s.row := rfl
@[simp] theorem Block.lfsrLoad_matchLvls (s : Block z) : (s.lfsrLoad).matchLvls = s.matchLvls := rfl
@[simp] theorem Block.lfsrLoad_inbox (s : Block z) : (s.lfsrLoad).inbox = s.inbox := rfl
@[simp] theorem Block.lfsrLoad_resp (s : Block z) : (s.lfsrLoad).resp = s.resp := rfl
@[simp] theorem Block.lfsrLoad_draws (s : Block z) : (s.lfsrLoad).draws = s.draws := rfl

/-! ### A write of one buffer bit -/

@[simp] theorem Block.setSbBit_cmdLatch (s : Block z) (b i : Nat) (v : Bool) :
    (s.setSbBit b i v).cmdLatch = s.cmdLatch := rfl
@[simp] theorem Block.setSbBit_stBusy (s : Block z) (b i : Nat) (v : Bool) :
    (s.setSbBit b i v).stBusy = s.stBusy := rfl
@[simp] theorem Block.setSbBit_stDone (s : Block z) (b i : Nat) (v : Bool) :
    (s.setSbBit b i v).stDone = s.stDone := rfl
@[simp] theorem Block.setSbBit_stErr (s : Block z) (b i : Nat) (v : Bool) :
    (s.setSbBit b i v).stErr = s.stErr := rfl
@[simp] theorem Block.setSbBit_stAny (s : Block z) (b i : Nat) (v : Bool) :
    (s.setSbBit b i v).stAny = s.stAny := rfl
@[simp] theorem Block.setSbBit_stOut (s : Block z) (b i : Nat) (v : Bool) :
    (s.setSbBit b i v).stOut = s.stOut := rfl
@[simp] theorem Block.setSbBit_stLv (s : Block z) (b i : Nat) (v : Bool) :
    (s.setSbBit b i v).stLv = s.stLv := rfl
@[simp] theorem Block.setSbBit_stMv (s : Block z) (b i : Nat) (v : Bool) :
    (s.setSbBit b i v).stMv = s.stMv := rfl
@[simp] theorem Block.setSbBit_errcode (s : Block z) (b i : Nat) (v : Bool) :
    (s.setSbBit b i v).errcode = s.errcode := rfl
@[simp] theorem Block.setSbBit_ie (s : Block z) (b i : Nat) (v : Bool) :
    (s.setSbBit b i v).ie = s.ie := rfl
@[simp] theorem Block.setSbBit_cfgShiftOr (s : Block z) (b i : Nat) (v : Bool) :
    (s.setSbBit b i v).cfgShiftOr = s.cfgShiftOr := rfl
@[simp] theorem Block.setSbBit_cfgAllowIns (s : Block z) (b i : Nat) (v : Bool) :
    (s.setSbBit b i v).cfgAllowIns = s.cfgAllowIns := rfl
@[simp] theorem Block.setSbBit_cfgPreset (s : Block z) (b i : Nat) (v : Bool) :
    (s.setSbBit b i v).cfgPreset = s.cfgPreset := rfl
@[simp] theorem Block.setSbBit_deg (s : Block z) (b i : Nat) (v : Bool) :
    (s.setSbBit b i v).deg = s.deg := rfl
@[simp] theorem Block.setSbBit_poly (s : Block z) (b i : Nat) (v : Bool) :
    (s.setSbBit b i v).poly = s.poly := rfl
@[simp] theorem Block.setSbBit_seed (s : Block z) (b i : Nat) (v : Bool) :
    (s.setSbBit b i v).seed = s.seed := rfl
@[simp] theorem Block.setSbBit_glen (s : Block z) (b i : Nat) (v : Bool) :
    (s.setSbBit b i v).glen = s.glen := rfl
@[simp] theorem Block.setSbBit_m (s : Block z) (b i : Nat) (v : Bool) :
    (s.setSbBit b i v).m = s.m := rfl
@[simp] theorem Block.setSbBit_n (s : Block z) (b i : Nat) (v : Bool) :
    (s.setSbBit b i v).n = s.n := rfl
@[simp] theorem Block.setSbBit_k (s : Block z) (b i : Nat) (v : Bool) :
    (s.setSbBit b i v).k = s.k := rfl
@[simp] theorem Block.setSbBit_lfsr (s : Block z) (b i : Nat) (v : Bool) :
    (s.setSbBit b i v).lfsr = s.lfsr := rfl
@[simp] theorem Block.setSbBit_adeg (s : Block z) (b i : Nat) (v : Bool) :
    (s.setSbBit b i v).adeg = s.adeg := rfl
@[simp] theorem Block.setSbBit_apoly (s : Block z) (b i : Nat) (v : Bool) :
    (s.setSbBit b i v).apoly = s.apoly := rfl
@[simp] theorem Block.setSbBit_am (s : Block z) (b i : Nat) (v : Bool) :
    (s.setSbBit b i v).am = s.am := rfl
@[simp] theorem Block.setSbBit_ak (s : Block z) (b i : Nat) (v : Bool) :
    (s.setSbBit b i v).ak = s.ak := rfl
@[simp] theorem Block.setSbBit_aso (s : Block z) (b i : Nat) (v : Bool) :
    (s.setSbBit b i v).aso = s.aso := rfl
@[simp] theorem Block.setSbBit_ains (s : Block z) (b i : Nat) (v : Bool) :
    (s.setSbBit b i v).ains = s.ains := rfl
@[simp] theorem Block.setSbBit_pos (s : Block z) (b i : Nat) (v : Bool) :
    (s.setSbBit b i v).pos = s.pos := rfl
@[simp] theorem Block.setSbBit_lastLvl (s : Block z) (b i : Nat) (v : Bool) :
    (s.setSbBit b i v).lastLvl = s.lastLvl := rfl
@[simp] theorem Block.setSbBit_minLvl (s : Block z) (b i : Nat) (v : Bool) :
    (s.setSbBit b i v).minLvl = s.minLvl := rfl
@[simp] theorem Block.setSbBit_sb (s : Block z) (b i : Nat) (v : Bool) :
    (s.setSbBit b i v).sb = setBufBit s.sb b i v := rfl
@[simp] theorem Block.setSbBit_mask0 (s : Block z) (b i : Nat) (v : Bool) :
    (s.setSbBit b i v).mask0 = s.mask0 := rfl
@[simp] theorem Block.setSbBit_mask1 (s : Block z) (b i : Nat) (v : Bool) :
    (s.setSbBit b i v).mask1 = s.mask1 := rfl
@[simp] theorem Block.setSbBit_row (s : Block z) (b i : Nat) (v : Bool) :
    (s.setSbBit b i v).row = s.row := rfl
@[simp] theorem Block.setSbBit_matchLvls (s : Block z) (b i : Nat) (v : Bool) :
    (s.setSbBit b i v).matchLvls = s.matchLvls := rfl
@[simp] theorem Block.setSbBit_inbox (s : Block z) (b i : Nat) (v : Bool) :
    (s.setSbBit b i v).inbox = s.inbox := rfl
@[simp] theorem Block.setSbBit_resp (s : Block z) (b i : Nat) (v : Bool) :
    (s.setSbBit b i v).resp = s.resp := rfl
@[simp] theorem Block.setSbBit_draws (s : Block z) (b i : Nat) (v : Bool) :
    (s.setSbBit b i v).draws = s.draws := rfl

/-! ### A write of one MATCHES entry -/

@[simp] theorem Block.setLevel_cmdLatch (s : Block z) (p : Nat) (v : Half) :
    (s.setLevel p v).cmdLatch = s.cmdLatch := rfl
@[simp] theorem Block.setLevel_stBusy (s : Block z) (p : Nat) (v : Half) :
    (s.setLevel p v).stBusy = s.stBusy := rfl
@[simp] theorem Block.setLevel_stDone (s : Block z) (p : Nat) (v : Half) :
    (s.setLevel p v).stDone = s.stDone := rfl
@[simp] theorem Block.setLevel_stErr (s : Block z) (p : Nat) (v : Half) :
    (s.setLevel p v).stErr = s.stErr := rfl
@[simp] theorem Block.setLevel_stAny (s : Block z) (p : Nat) (v : Half) :
    (s.setLevel p v).stAny = s.stAny := rfl
@[simp] theorem Block.setLevel_stOut (s : Block z) (p : Nat) (v : Half) :
    (s.setLevel p v).stOut = s.stOut := rfl
@[simp] theorem Block.setLevel_stLv (s : Block z) (p : Nat) (v : Half) :
    (s.setLevel p v).stLv = s.stLv := rfl
@[simp] theorem Block.setLevel_stMv (s : Block z) (p : Nat) (v : Half) :
    (s.setLevel p v).stMv = s.stMv := rfl
@[simp] theorem Block.setLevel_errcode (s : Block z) (p : Nat) (v : Half) :
    (s.setLevel p v).errcode = s.errcode := rfl
@[simp] theorem Block.setLevel_ie (s : Block z) (p : Nat) (v : Half) :
    (s.setLevel p v).ie = s.ie := rfl
@[simp] theorem Block.setLevel_cfgShiftOr (s : Block z) (p : Nat) (v : Half) :
    (s.setLevel p v).cfgShiftOr = s.cfgShiftOr := rfl
@[simp] theorem Block.setLevel_cfgAllowIns (s : Block z) (p : Nat) (v : Half) :
    (s.setLevel p v).cfgAllowIns = s.cfgAllowIns := rfl
@[simp] theorem Block.setLevel_cfgPreset (s : Block z) (p : Nat) (v : Half) :
    (s.setLevel p v).cfgPreset = s.cfgPreset := rfl
@[simp] theorem Block.setLevel_deg (s : Block z) (p : Nat) (v : Half) :
    (s.setLevel p v).deg = s.deg := rfl
@[simp] theorem Block.setLevel_poly (s : Block z) (p : Nat) (v : Half) :
    (s.setLevel p v).poly = s.poly := rfl
@[simp] theorem Block.setLevel_seed (s : Block z) (p : Nat) (v : Half) :
    (s.setLevel p v).seed = s.seed := rfl
@[simp] theorem Block.setLevel_glen (s : Block z) (p : Nat) (v : Half) :
    (s.setLevel p v).glen = s.glen := rfl
@[simp] theorem Block.setLevel_m (s : Block z) (p : Nat) (v : Half) :
    (s.setLevel p v).m = s.m := rfl
@[simp] theorem Block.setLevel_n (s : Block z) (p : Nat) (v : Half) :
    (s.setLevel p v).n = s.n := rfl
@[simp] theorem Block.setLevel_k (s : Block z) (p : Nat) (v : Half) :
    (s.setLevel p v).k = s.k := rfl
@[simp] theorem Block.setLevel_lfsr (s : Block z) (p : Nat) (v : Half) :
    (s.setLevel p v).lfsr = s.lfsr := rfl
@[simp] theorem Block.setLevel_adeg (s : Block z) (p : Nat) (v : Half) :
    (s.setLevel p v).adeg = s.adeg := rfl
@[simp] theorem Block.setLevel_apoly (s : Block z) (p : Nat) (v : Half) :
    (s.setLevel p v).apoly = s.apoly := rfl
@[simp] theorem Block.setLevel_am (s : Block z) (p : Nat) (v : Half) :
    (s.setLevel p v).am = s.am := rfl
@[simp] theorem Block.setLevel_ak (s : Block z) (p : Nat) (v : Half) :
    (s.setLevel p v).ak = s.ak := rfl
@[simp] theorem Block.setLevel_aso (s : Block z) (p : Nat) (v : Half) :
    (s.setLevel p v).aso = s.aso := rfl
@[simp] theorem Block.setLevel_ains (s : Block z) (p : Nat) (v : Half) :
    (s.setLevel p v).ains = s.ains := rfl
@[simp] theorem Block.setLevel_pos (s : Block z) (p : Nat) (v : Half) :
    (s.setLevel p v).pos = s.pos := rfl
@[simp] theorem Block.setLevel_lastLvl (s : Block z) (p : Nat) (v : Half) :
    (s.setLevel p v).lastLvl = s.lastLvl := rfl
@[simp] theorem Block.setLevel_minLvl (s : Block z) (p : Nat) (v : Half) :
    (s.setLevel p v).minLvl = s.minLvl := rfl
@[simp] theorem Block.setLevel_sb (s : Block z) (p : Nat) (v : Half) :
    (s.setLevel p v).sb = s.sb := rfl
@[simp] theorem Block.setLevel_mask0 (s : Block z) (p : Nat) (v : Half) :
    (s.setLevel p v).mask0 = s.mask0 := rfl
@[simp] theorem Block.setLevel_mask1 (s : Block z) (p : Nat) (v : Half) :
    (s.setLevel p v).mask1 = s.mask1 := rfl
@[simp] theorem Block.setLevel_row (s : Block z) (p : Nat) (v : Half) :
    (s.setLevel p v).row = s.row := rfl
@[simp] theorem Block.setLevel_matchLvls (s : Block z) (p : Nat) (v : Half) :
    (s.setLevel p v).matchLvls = s.matchLvls.setIfInBounds p v := rfl
@[simp] theorem Block.setLevel_inbox (s : Block z) (p : Nat) (v : Half) :
    (s.setLevel p v).inbox = s.inbox := rfl
@[simp] theorem Block.setLevel_resp (s : Block z) (p : Nat) (v : Half) :
    (s.setLevel p v).resp = s.resp := rfl
@[simp] theorem Block.setLevel_draws (s : Block z) (p : Nat) (v : Half) :
    (s.setLevel p v).draws = s.draws := rfl

/-! ### The preprocessing of a pattern -/

@[simp] theorem Block.mInit_cmdLatch (s : Block z) (b : Nat) :
    (s.mInit b).cmdLatch = s.cmdLatch := rfl
@[simp] theorem Block.mInit_stBusy (s : Block z) (b : Nat) : (s.mInit b).stBusy = s.stBusy := rfl
@[simp] theorem Block.mInit_stDone (s : Block z) (b : Nat) : (s.mInit b).stDone = s.stDone := rfl
@[simp] theorem Block.mInit_stErr (s : Block z) (b : Nat) : (s.mInit b).stErr = s.stErr := rfl
@[simp] theorem Block.mInit_stAny (s : Block z) (b : Nat) : (s.mInit b).stAny = false := rfl
@[simp] theorem Block.mInit_stOut (s : Block z) (b : Nat) : (s.mInit b).stOut = s.stOut := rfl
@[simp] theorem Block.mInit_stLv (s : Block z) (b : Nat) : (s.mInit b).stLv = s.stLv := rfl
@[simp] theorem Block.mInit_stMv (s : Block z) (b : Nat) : (s.mInit b).stMv = true := rfl
@[simp] theorem Block.mInit_errcode (s : Block z) (b : Nat) : (s.mInit b).errcode = s.errcode := rfl
@[simp] theorem Block.mInit_ie (s : Block z) (b : Nat) : (s.mInit b).ie = s.ie := rfl
@[simp] theorem Block.mInit_cfgShiftOr (s : Block z) (b : Nat) :
    (s.mInit b).cfgShiftOr = s.cfgShiftOr := rfl
@[simp] theorem Block.mInit_cfgAllowIns (s : Block z) (b : Nat) :
    (s.mInit b).cfgAllowIns = s.cfgAllowIns := rfl
@[simp] theorem Block.mInit_cfgPreset (s : Block z) (b : Nat) :
    (s.mInit b).cfgPreset = s.cfgPreset := rfl
@[simp] theorem Block.mInit_deg (s : Block z) (b : Nat) : (s.mInit b).deg = s.deg := rfl
@[simp] theorem Block.mInit_poly (s : Block z) (b : Nat) : (s.mInit b).poly = s.poly := rfl
@[simp] theorem Block.mInit_seed (s : Block z) (b : Nat) : (s.mInit b).seed = s.seed := rfl
@[simp] theorem Block.mInit_glen (s : Block z) (b : Nat) : (s.mInit b).glen = s.glen := rfl
@[simp] theorem Block.mInit_m (s : Block z) (b : Nat) : (s.mInit b).m = s.m := rfl
@[simp] theorem Block.mInit_n (s : Block z) (b : Nat) : (s.mInit b).n = s.n := rfl
@[simp] theorem Block.mInit_k (s : Block z) (b : Nat) : (s.mInit b).k = s.k := rfl
@[simp] theorem Block.mInit_lfsr (s : Block z) (b : Nat) : (s.mInit b).lfsr = s.lfsr := rfl
@[simp] theorem Block.mInit_adeg (s : Block z) (b : Nat) : (s.mInit b).adeg = s.adeg := rfl
@[simp] theorem Block.mInit_apoly (s : Block z) (b : Nat) : (s.mInit b).apoly = s.apoly := rfl
@[simp] theorem Block.mInit_am (s : Block z) (b : Nat) : (s.mInit b).am = s.m := rfl
@[simp] theorem Block.mInit_ak (s : Block z) (b : Nat) : (s.mInit b).ak = s.k := rfl
@[simp] theorem Block.mInit_aso (s : Block z) (b : Nat) : (s.mInit b).aso = s.cfgShiftOr := rfl
@[simp] theorem Block.mInit_ains (s : Block z) (b : Nat) : (s.mInit b).ains = s.cfgAllowIns := rfl
@[simp] theorem Block.mInit_pos (s : Block z) (b : Nat) : (s.mInit b).pos = 0 := rfl
@[simp] theorem Block.mInit_lastLvl (s : Block z) (b : Nat) : (s.mInit b).lastLvl = s.m := rfl
@[simp] theorem Block.mInit_minLvl (s : Block z) (b : Nat) : (s.mInit b).minLvl = s.m := rfl
@[simp] theorem Block.mInit_sb (s : Block z) (b : Nat) : (s.mInit b).sb = s.sb := rfl
@[simp] theorem Block.mInit_mask0 (s : Block z) (b : Nat) :
    (s.mInit b).mask0 = buildMask (s.sbBit b) s.m.toNat s.cfgShiftOr false := rfl
@[simp] theorem Block.mInit_mask1 (s : Block z) (b : Nat) :
    (s.mInit b).mask1 = buildMask (s.sbBit b) s.m.toNat s.cfgShiftOr true := rfl
@[simp] theorem Block.mInit_row (s : Block z) (b : Nat) :
    (s.mInit b).row = buildRows s.m.toNat s.k.toNat s.cfgShiftOr s.row := rfl
@[simp] theorem Block.mInit_matchLvls (s : Block z) (b : Nat) :
    (s.mInit b).matchLvls = s.matchLvls := rfl
@[simp] theorem Block.mInit_inbox (s : Block z) (b : Nat) : (s.mInit b).inbox = s.inbox := rfl
@[simp] theorem Block.mInit_resp (s : Block z) (b : Nat) : (s.mInit b).resp = s.resp := rfl
@[simp] theorem Block.mInit_draws (s : Block z) (b : Nat) : (s.mInit b).draws = s.draws := rfl

/-! ### The row update of one symbol -/

@[simp] theorem Block.updateRows_cmdLatch (s : Block z) (c : Bool) :
    (s.updateRows c).cmdLatch = s.cmdLatch := rfl
@[simp] theorem Block.updateRows_stBusy (s : Block z) (c : Bool) :
    (s.updateRows c).stBusy = s.stBusy := rfl
@[simp] theorem Block.updateRows_stDone (s : Block z) (c : Bool) :
    (s.updateRows c).stDone = s.stDone := rfl
@[simp] theorem Block.updateRows_stErr (s : Block z) (c : Bool) :
    (s.updateRows c).stErr = s.stErr := rfl
@[simp] theorem Block.updateRows_stAny (s : Block z) (c : Bool) :
    (s.updateRows c).stAny = s.stAny := rfl
@[simp] theorem Block.updateRows_stOut (s : Block z) (c : Bool) :
    (s.updateRows c).stOut = s.stOut := rfl
@[simp] theorem Block.updateRows_stLv (s : Block z) (c : Bool) :
    (s.updateRows c).stLv = s.stLv := rfl
@[simp] theorem Block.updateRows_stMv (s : Block z) (c : Bool) :
    (s.updateRows c).stMv = s.stMv := rfl
@[simp] theorem Block.updateRows_errcode (s : Block z) (c : Bool) :
    (s.updateRows c).errcode = s.errcode := rfl
@[simp] theorem Block.updateRows_ie (s : Block z) (c : Bool) : (s.updateRows c).ie = s.ie := rfl
@[simp] theorem Block.updateRows_cfgShiftOr (s : Block z) (c : Bool) :
    (s.updateRows c).cfgShiftOr = s.cfgShiftOr := rfl
@[simp] theorem Block.updateRows_cfgAllowIns (s : Block z) (c : Bool) :
    (s.updateRows c).cfgAllowIns = s.cfgAllowIns := rfl
@[simp] theorem Block.updateRows_cfgPreset (s : Block z) (c : Bool) :
    (s.updateRows c).cfgPreset = s.cfgPreset := rfl
@[simp] theorem Block.updateRows_deg (s : Block z) (c : Bool) : (s.updateRows c).deg = s.deg := rfl
@[simp] theorem Block.updateRows_poly (s : Block z) (c : Bool) :
    (s.updateRows c).poly = s.poly := rfl
@[simp] theorem Block.updateRows_seed (s : Block z) (c : Bool) :
    (s.updateRows c).seed = s.seed := rfl
@[simp] theorem Block.updateRows_glen (s : Block z) (c : Bool) :
    (s.updateRows c).glen = s.glen := rfl
@[simp] theorem Block.updateRows_m (s : Block z) (c : Bool) : (s.updateRows c).m = s.m := rfl
@[simp] theorem Block.updateRows_n (s : Block z) (c : Bool) : (s.updateRows c).n = s.n := rfl
@[simp] theorem Block.updateRows_k (s : Block z) (c : Bool) : (s.updateRows c).k = s.k := rfl
@[simp] theorem Block.updateRows_lfsr (s : Block z) (c : Bool) :
    (s.updateRows c).lfsr = s.lfsr := rfl
@[simp] theorem Block.updateRows_adeg (s : Block z) (c : Bool) :
    (s.updateRows c).adeg = s.adeg := rfl
@[simp] theorem Block.updateRows_apoly (s : Block z) (c : Bool) :
    (s.updateRows c).apoly = s.apoly := rfl
@[simp] theorem Block.updateRows_am (s : Block z) (c : Bool) : (s.updateRows c).am = s.am := rfl
@[simp] theorem Block.updateRows_ak (s : Block z) (c : Bool) : (s.updateRows c).ak = s.ak := rfl
@[simp] theorem Block.updateRows_aso (s : Block z) (c : Bool) : (s.updateRows c).aso = s.aso := rfl
@[simp] theorem Block.updateRows_ains (s : Block z) (c : Bool) :
    (s.updateRows c).ains = s.ains := rfl
@[simp] theorem Block.updateRows_pos (s : Block z) (c : Bool) : (s.updateRows c).pos = s.pos := rfl
@[simp] theorem Block.updateRows_lastLvl (s : Block z) (c : Bool) :
    (s.updateRows c).lastLvl = s.lastLvl := rfl
@[simp] theorem Block.updateRows_minLvl (s : Block z) (c : Bool) :
    (s.updateRows c).minLvl = s.minLvl := rfl
@[simp] theorem Block.updateRows_sb (s : Block z) (c : Bool) : (s.updateRows c).sb = s.sb := rfl
@[simp] theorem Block.updateRows_mask0 (s : Block z) (c : Bool) :
    (s.updateRows c).mask0 = s.mask0 := rfl
@[simp] theorem Block.updateRows_mask1 (s : Block z) (c : Bool) :
    (s.updateRows c).mask1 = s.mask1 := rfl
@[simp] theorem Block.updateRows_row (s : Block z) (c : Bool) :
    (s.updateRows c).row = stepRowsFrom (stepRowI s.am.toNat s.aso s.ains (s.mask c)) 1 s.ak.toNat (s.rowK 0)
      (stepRow0 s.am.toNat s.aso (s.mask c) (s.rowK 0))
      (s.row.setIfInBounds 0 (stepRow0 s.am.toNat s.aso (s.mask c) (s.rowK 0))) := rfl
@[simp] theorem Block.updateRows_matchLvls (s : Block z) (c : Bool) :
    (s.updateRows c).matchLvls = s.matchLvls := rfl
@[simp] theorem Block.updateRows_inbox (s : Block z) (c : Bool) :
    (s.updateRows c).inbox = s.inbox := rfl
@[simp] theorem Block.updateRows_resp (s : Block z) (c : Bool) :
    (s.updateRows c).resp = s.resp := rfl
@[simp] theorem Block.updateRows_draws (s : Block z) (c : Bool) :
    (s.updateRows c).draws = s.draws := rfl

/-! ### The recording of a level -/

@[simp] theorem Block.recordLevel_cmdLatch (s : Block z) (lvl : Half) :
    (s.recordLevel lvl).cmdLatch = s.cmdLatch := rfl
@[simp] theorem Block.recordLevel_stBusy (s : Block z) (lvl : Half) :
    (s.recordLevel lvl).stBusy = s.stBusy := rfl
@[simp] theorem Block.recordLevel_stDone (s : Block z) (lvl : Half) :
    (s.recordLevel lvl).stDone = s.stDone := rfl
@[simp] theorem Block.recordLevel_stErr (s : Block z) (lvl : Half) :
    (s.recordLevel lvl).stErr = s.stErr := rfl
@[simp] theorem Block.recordLevel_stAny (s : Block z) (lvl : Half) :
    (s.recordLevel lvl).stAny = (s.stAny || decide (lvl.toNat < s.am.toNat)) := rfl
@[simp] theorem Block.recordLevel_stOut (s : Block z) (lvl : Half) :
    (s.recordLevel lvl).stOut = s.stOut := rfl
@[simp] theorem Block.recordLevel_stLv (s : Block z) (lvl : Half) :
    (s.recordLevel lvl).stLv = s.stLv := rfl
@[simp] theorem Block.recordLevel_stMv (s : Block z) (lvl : Half) :
    (s.recordLevel lvl).stMv = s.stMv := rfl
@[simp] theorem Block.recordLevel_errcode (s : Block z) (lvl : Half) :
    (s.recordLevel lvl).errcode = s.errcode := rfl
@[simp] theorem Block.recordLevel_ie (s : Block z) (lvl : Half) :
    (s.recordLevel lvl).ie = s.ie := rfl
@[simp] theorem Block.recordLevel_cfgShiftOr (s : Block z) (lvl : Half) :
    (s.recordLevel lvl).cfgShiftOr = s.cfgShiftOr := rfl
@[simp] theorem Block.recordLevel_cfgAllowIns (s : Block z) (lvl : Half) :
    (s.recordLevel lvl).cfgAllowIns = s.cfgAllowIns := rfl
@[simp] theorem Block.recordLevel_cfgPreset (s : Block z) (lvl : Half) :
    (s.recordLevel lvl).cfgPreset = s.cfgPreset := rfl
@[simp] theorem Block.recordLevel_deg (s : Block z) (lvl : Half) :
    (s.recordLevel lvl).deg = s.deg := rfl
@[simp] theorem Block.recordLevel_poly (s : Block z) (lvl : Half) :
    (s.recordLevel lvl).poly = s.poly := rfl
@[simp] theorem Block.recordLevel_seed (s : Block z) (lvl : Half) :
    (s.recordLevel lvl).seed = s.seed := rfl
@[simp] theorem Block.recordLevel_glen (s : Block z) (lvl : Half) :
    (s.recordLevel lvl).glen = s.glen := rfl
@[simp] theorem Block.recordLevel_m (s : Block z) (lvl : Half) : (s.recordLevel lvl).m = s.m := rfl
@[simp] theorem Block.recordLevel_n (s : Block z) (lvl : Half) : (s.recordLevel lvl).n = s.n := rfl
@[simp] theorem Block.recordLevel_k (s : Block z) (lvl : Half) : (s.recordLevel lvl).k = s.k := rfl
@[simp] theorem Block.recordLevel_lfsr (s : Block z) (lvl : Half) :
    (s.recordLevel lvl).lfsr = s.lfsr := rfl
@[simp] theorem Block.recordLevel_adeg (s : Block z) (lvl : Half) :
    (s.recordLevel lvl).adeg = s.adeg := rfl
@[simp] theorem Block.recordLevel_apoly (s : Block z) (lvl : Half) :
    (s.recordLevel lvl).apoly = s.apoly := rfl
@[simp] theorem Block.recordLevel_am (s : Block z) (lvl : Half) :
    (s.recordLevel lvl).am = s.am := rfl
@[simp] theorem Block.recordLevel_ak (s : Block z) (lvl : Half) :
    (s.recordLevel lvl).ak = s.ak := rfl
@[simp] theorem Block.recordLevel_aso (s : Block z) (lvl : Half) :
    (s.recordLevel lvl).aso = s.aso := rfl
@[simp] theorem Block.recordLevel_ains (s : Block z) (lvl : Half) :
    (s.recordLevel lvl).ains = s.ains := rfl
@[simp] theorem Block.recordLevel_pos (s : Block z) (lvl : Half) :
    (s.recordLevel lvl).pos = s.pos + 1 := rfl
@[simp] theorem Block.recordLevel_lastLvl (s : Block z) (lvl : Half) :
    (s.recordLevel lvl).lastLvl = lvl := rfl
@[simp] theorem Block.recordLevel_minLvl (s : Block z) (lvl : Half) :
    (s.recordLevel lvl).minLvl = (if lvl.toNat < s.minLvl.toNat then lvl else s.minLvl) := rfl
@[simp] theorem Block.recordLevel_sb (s : Block z) (lvl : Half) :
    (s.recordLevel lvl).sb = s.sb := rfl
@[simp] theorem Block.recordLevel_mask0 (s : Block z) (lvl : Half) :
    (s.recordLevel lvl).mask0 = s.mask0 := rfl
@[simp] theorem Block.recordLevel_mask1 (s : Block z) (lvl : Half) :
    (s.recordLevel lvl).mask1 = s.mask1 := rfl
@[simp] theorem Block.recordLevel_row (s : Block z) (lvl : Half) :
    (s.recordLevel lvl).row = s.row := rfl
@[simp] theorem Block.recordLevel_matchLvls (s : Block z) (lvl : Half) :
    (s.recordLevel lvl).matchLvls = s.matchLvls.setIfInBounds s.pos.toNat lvl := rfl
@[simp] theorem Block.recordLevel_inbox (s : Block z) (lvl : Half) :
    (s.recordLevel lvl).inbox = s.inbox := rfl
@[simp] theorem Block.recordLevel_resp (s : Block z) (lvl : Half) :
    (s.recordLevel lvl).resp = s.resp := rfl
@[simp] theorem Block.recordLevel_draws (s : Block z) (lvl : Half) :
    (s.recordLevel lvl).draws = s.draws := rfl

/-! ### The reset of the registers -/

@[simp] theorem Block.resetRegisters_cmdLatch (s : Block z) : (s.resetRegisters).cmdLatch = 0 := rfl
@[simp] theorem Block.resetRegisters_stBusy (s : Block z) : (s.resetRegisters).stBusy = false := rfl
@[simp] theorem Block.resetRegisters_stDone (s : Block z) : (s.resetRegisters).stDone = false := rfl
@[simp] theorem Block.resetRegisters_stErr (s : Block z) : (s.resetRegisters).stErr = false := rfl
@[simp] theorem Block.resetRegisters_stAny (s : Block z) : (s.resetRegisters).stAny = false := rfl
@[simp] theorem Block.resetRegisters_stOut (s : Block z) : (s.resetRegisters).stOut = false := rfl
@[simp] theorem Block.resetRegisters_stLv (s : Block z) : (s.resetRegisters).stLv = false := rfl
@[simp] theorem Block.resetRegisters_stMv (s : Block z) : (s.resetRegisters).stMv = false := rfl
@[simp] theorem Block.resetRegisters_errcode (s : Block z) : (s.resetRegisters).errcode = 0 := rfl
@[simp] theorem Block.resetRegisters_ie (s : Block z) : (s.resetRegisters).ie = false := rfl
@[simp] theorem Block.resetRegisters_cfgShiftOr (s : Block z) :
    (s.resetRegisters).cfgShiftOr = false := rfl
@[simp] theorem Block.resetRegisters_cfgAllowIns (s : Block z) :
    (s.resetRegisters).cfgAllowIns = false := rfl
@[simp] theorem Block.resetRegisters_cfgPreset (s : Block z) :
    (s.resetRegisters).cfgPreset = false := rfl
@[simp] theorem Block.resetRegisters_deg (s : Block z) : (s.resetRegisters).deg = 0 := rfl
@[simp] theorem Block.resetRegisters_poly (s : Block z) : (s.resetRegisters).poly = 0 := rfl
@[simp] theorem Block.resetRegisters_seed (s : Block z) : (s.resetRegisters).seed = 0 := rfl
@[simp] theorem Block.resetRegisters_glen (s : Block z) : (s.resetRegisters).glen = 0 := rfl
@[simp] theorem Block.resetRegisters_m (s : Block z) : (s.resetRegisters).m = 0 := rfl
@[simp] theorem Block.resetRegisters_n (s : Block z) : (s.resetRegisters).n = 0 := rfl
@[simp] theorem Block.resetRegisters_k (s : Block z) : (s.resetRegisters).k = 0 := rfl
@[simp] theorem Block.resetRegisters_lfsr (s : Block z) : (s.resetRegisters).lfsr = 0 := rfl
@[simp] theorem Block.resetRegisters_adeg (s : Block z) : (s.resetRegisters).adeg = 0 := rfl
@[simp] theorem Block.resetRegisters_apoly (s : Block z) : (s.resetRegisters).apoly = 0 := rfl
@[simp] theorem Block.resetRegisters_am (s : Block z) : (s.resetRegisters).am = 0 := rfl
@[simp] theorem Block.resetRegisters_ak (s : Block z) : (s.resetRegisters).ak = 0 := rfl
@[simp] theorem Block.resetRegisters_aso (s : Block z) : (s.resetRegisters).aso = false := rfl
@[simp] theorem Block.resetRegisters_ains (s : Block z) : (s.resetRegisters).ains = false := rfl
@[simp] theorem Block.resetRegisters_pos (s : Block z) : (s.resetRegisters).pos = 0 := rfl
@[simp] theorem Block.resetRegisters_lastLvl (s : Block z) : (s.resetRegisters).lastLvl = 0 := rfl
@[simp] theorem Block.resetRegisters_minLvl (s : Block z) : (s.resetRegisters).minLvl = 0 := rfl
@[simp] theorem Block.resetRegisters_sb (s : Block z) : (s.resetRegisters).sb = s.sb := rfl
@[simp] theorem Block.resetRegisters_mask0 (s : Block z) : (s.resetRegisters).mask0 = s.mask0 := rfl
@[simp] theorem Block.resetRegisters_mask1 (s : Block z) : (s.resetRegisters).mask1 = s.mask1 := rfl
@[simp] theorem Block.resetRegisters_row (s : Block z) : (s.resetRegisters).row = s.row := rfl
@[simp] theorem Block.resetRegisters_matchLvls (s : Block z) :
    (s.resetRegisters).matchLvls = s.matchLvls := rfl
@[simp] theorem Block.resetRegisters_inbox (s : Block z) : (s.resetRegisters).inbox = s.inbox := rfl
@[simp] theorem Block.resetRegisters_resp (s : Block z) : (s.resetRegisters).resp = s.resp := rfl
@[simp] theorem Block.resetRegisters_draws (s : Block z) : (s.resetRegisters).draws = s.draws := rfl

/-! ### A hard reset -/

@[simp] theorem Block.hardReset_cmdLatch (s : Block z) : (s.hardReset).cmdLatch = 0 := rfl
@[simp] theorem Block.hardReset_stBusy (s : Block z) : (s.hardReset).stBusy = false := rfl
@[simp] theorem Block.hardReset_stDone (s : Block z) : (s.hardReset).stDone = false := rfl
@[simp] theorem Block.hardReset_stErr (s : Block z) : (s.hardReset).stErr = false := rfl
@[simp] theorem Block.hardReset_stAny (s : Block z) : (s.hardReset).stAny = false := rfl
@[simp] theorem Block.hardReset_stOut (s : Block z) : (s.hardReset).stOut = false := rfl
@[simp] theorem Block.hardReset_stLv (s : Block z) : (s.hardReset).stLv = false := rfl
@[simp] theorem Block.hardReset_stMv (s : Block z) : (s.hardReset).stMv = false := rfl
@[simp] theorem Block.hardReset_errcode (s : Block z) : (s.hardReset).errcode = 0 := rfl
@[simp] theorem Block.hardReset_ie (s : Block z) : (s.hardReset).ie = false := rfl
@[simp] theorem Block.hardReset_cfgShiftOr (s : Block z) : (s.hardReset).cfgShiftOr = false := rfl
@[simp] theorem Block.hardReset_cfgAllowIns (s : Block z) : (s.hardReset).cfgAllowIns = false := rfl
@[simp] theorem Block.hardReset_cfgPreset (s : Block z) : (s.hardReset).cfgPreset = false := rfl
@[simp] theorem Block.hardReset_deg (s : Block z) : (s.hardReset).deg = 0 := rfl
@[simp] theorem Block.hardReset_poly (s : Block z) : (s.hardReset).poly = 0 := rfl
@[simp] theorem Block.hardReset_seed (s : Block z) : (s.hardReset).seed = 0 := rfl
@[simp] theorem Block.hardReset_glen (s : Block z) : (s.hardReset).glen = 0 := rfl
@[simp] theorem Block.hardReset_m (s : Block z) : (s.hardReset).m = 0 := rfl
@[simp] theorem Block.hardReset_n (s : Block z) : (s.hardReset).n = 0 := rfl
@[simp] theorem Block.hardReset_k (s : Block z) : (s.hardReset).k = 0 := rfl
@[simp] theorem Block.hardReset_lfsr (s : Block z) : (s.hardReset).lfsr = 0 := rfl
@[simp] theorem Block.hardReset_adeg (s : Block z) : (s.hardReset).adeg = 0 := rfl
@[simp] theorem Block.hardReset_apoly (s : Block z) : (s.hardReset).apoly = 0 := rfl
@[simp] theorem Block.hardReset_am (s : Block z) : (s.hardReset).am = 0 := rfl
@[simp] theorem Block.hardReset_ak (s : Block z) : (s.hardReset).ak = 0 := rfl
@[simp] theorem Block.hardReset_aso (s : Block z) : (s.hardReset).aso = false := rfl
@[simp] theorem Block.hardReset_ains (s : Block z) : (s.hardReset).ains = false := rfl
@[simp] theorem Block.hardReset_pos (s : Block z) : (s.hardReset).pos = 0 := rfl
@[simp] theorem Block.hardReset_lastLvl (s : Block z) : (s.hardReset).lastLvl = 0 := rfl
@[simp] theorem Block.hardReset_minLvl (s : Block z) : (s.hardReset).minLvl = 0 := rfl
@[simp] theorem Block.hardReset_sb (s : Block z) : (s.hardReset).sb = freeSb z s.draws := rfl
@[simp] theorem Block.hardReset_mask0 (s : Block z) :
    (s.hardReset).mask0 = Config.freeMask z.mMax s.draws false := rfl
@[simp] theorem Block.hardReset_mask1 (s : Block z) :
    (s.hardReset).mask1 = Config.freeMask z.mMax s.draws true := rfl
@[simp] theorem Block.hardReset_row (s : Block z) : (s.hardReset).row = freeRows z s.draws := rfl
@[simp] theorem Block.hardReset_matchLvls (s : Block z) :
    (s.hardReset).matchLvls = freeLevels z s.draws := rfl
@[simp] theorem Block.hardReset_inbox (s : Block z) : (s.hardReset).inbox = s.inbox := rfl
@[simp] theorem Block.hardReset_resp (s : Block z) : (s.hardReset).resp = .noAccess := rfl
@[simp] theorem Block.hardReset_draws (s : Block z) : (s.hardReset).draws = s.draws + 1 := rfl

end Sys2Proof.Machine
end

