-- ==== Sys2Proof/Laws/Ops.lean ====
section
/-! SUPPORT. Checking then executing: what `checked` can do, said once. -/

namespace Sys2Proof.Machine

variable {z : Params}

@[simp] theorem firstFailing_nil : firstFailing [] = none := rfl

@[simp] theorem firstFailing_cons (b : Bool) (e : CmdErr) (rest : List (Bool × CmdErr)) :
    firstFailing ((b, e) :: rest) = if b then some e else firstFailing rest := rfl

/-- No check fails exactly when every check's flag is down. -/
theorem firstFailing_eq_none (cs : List (Bool × CmdErr)) :
    firstFailing cs = none ↔ ∀ c ∈ cs, c.1 = false := by
  induction cs with
  | nil => simp
  | cons c rest ih =>
    obtain ⟨b, e⟩ := c
    cases b <;> simp [ih]

/-- The error reported is one of the listed ones. -/
theorem firstFailing_mem {cs : List (Bool × CmdErr)} {e : CmdErr} (h : firstFailing cs = some e) :
    (true, e) ∈ cs := by
  induction cs with
  | nil => simp at h
  | cons c rest ih =>
    obtain ⟨b, e'⟩ := c
    cases b <;> simp_all

theorem checked_of_none {cs : List (Bool × CmdErr)} {f : Block z → Block z} {s : Block z}
    (h : firstFailing cs = none) : checked cs f s = f s := by
  simp [checked, h]

theorem checked_of_some {cs : List (Bool × CmdErr)} {f : Block z → Block z} {s : Block z} {e : CmdErr}
    (h : firstFailing cs = some e) : checked cs f s = s.cmdError e := by
  simp [checked, h]

/-- Everything a checked command can do: record its first failing check, or have its effect. -/
theorem checked_cases (cs : List (Bool × CmdErr)) (f : Block z → Block z) (s : Block z) :
    (∃ e, firstFailing cs = some e ∧ checked cs f s = s.cmdError e) ∨
    (firstFailing cs = none ∧ checked cs f s = f s) := by
  cases hc : firstFailing cs with
  | some e => exact .inl ⟨e, rfl, checked_of_some hc⟩
  | none => exact .inr ⟨rfl, checked_of_none hc⟩

/-- What is done to the block is the next state. -/
@[simp] theorem onBlock_mk (s : Block z) (f : Block z → Block z) :
    State.onBlock ⟨z, s⟩ f = .next ⟨z, f s⟩ := rfl

/-- Two next states with the same parameters are equal exactly when the blocks are. -/
@[simp] theorem next_inj (s t : Block z) :
    (.next ⟨z, s⟩ : Host.Outcome State Fault Refusal) = .next ⟨z, t⟩ ↔ s = t := by
  constructor
  · intro h; cases h; rfl
  · intro h; rw [h]

/-- Every outcome of an operation on the block is a next state with the same parameters. -/
theorem onBlock_next {s t : State} {f : Block s.params → Block s.params}
    (h : s.onBlock f = .next t) : t = ⟨s.params, f s.block⟩ := by
  cases h; rfl

end Sys2Proof.Machine
end

