-- ==== Sys2Proof/Laws/Combiner.lean ====
section
/-! SUPPORT. What ENC's loop does: the closed form of every ciphertext bit, whatever buffers coincide. -/

namespace Sys2Proof.Machine

variable {z : Params}

/-- ENC's loop changes nothing but SB. -/
theorem encLoop_frame (d a b c : Nat) : ∀ (count i j : Nat) (s : Block z),
    encLoop d a b c i j count s = { s with sb := (encLoop d a b c i j count s).sb } := by
  intro count
  induction count with
  | zero => intro i j s; rfl
  | succ n ih => intro i j s; rw [encLoop, ih]; rfl

/-- The buffer bits after ENC's loop. `s0` is the state before the command: the loop at position `i`
reads only bits at `i` or above, which it has not yet written (42_combiner.md R193). -/
theorem sbBit_encLoop (s0 : Block z) (d a b c : Nat) : ∀ (count i j : Nat) (s : Block z),
    (∀ b' i', i ≤ i' → s.sbBit b' i' = s0.sbBit b' i') → j = i + onesBelow (s0.sbBit a) i →
    ∀ b' i', (encLoop d a b c i j count s).sbBit b' i' =
      if b' = d ∧ i ≤ i' ∧ i' < i + count ∧ d < z.nbuf ∧ i' < z.bufBits
      then combineBit (s0.sbBit a) (s0.sbBit b) (s0.sbBit c) i' else s.sbBit b' i' := by
  intro count
  induction count with
  | zero => intro i j s _ _ b' i'; rw [encLoop, if_neg (by omega)]
  | succ n ih =>
    intro i j s hs hj b' i'
    have ha : s.sbBit a i = s0.sbBit a i := hs a i (Nat.le_refl i)
    have hc : s.sbBit c i = s0.sbBit c i := hs c i (Nat.le_refl i)
    have hcur : (if s.sbBit a i then j + 1 else j) = i + onesBelow (s0.sbBit a) (i + 1) := by
      rw [ha, hj, onesBelow]; split <;> omega
    have hb : s.sbBit b (i + onesBelow (s0.sbBit a) (i + 1)) =
        s0.sbBit b (i + onesBelow (s0.sbBit a) (i + 1)) := hs _ _ (by omega)
    have hval : (s.sbBit b (i + onesBelow (s0.sbBit a) (i + 1)) ^^ s.sbBit c i) =
        combineBit (s0.sbBit a) (s0.sbBit b) (s0.sbBit c) i := by rw [hb, hc, combineBit]
    rw [encLoop]
    rw [hcur, hval, ih (i + 1) _ _ _ (by omega)]
    · rw [sbBit_setSbBit]
      by_cases h : b' = d ∧ i + 1 ≤ i' ∧ i' < i + 1 + n ∧ d < z.nbuf ∧ i' < z.bufBits
      · rw [if_pos h, if_pos (by omega)]
      · rw [if_neg h]
        by_cases h' : b' = d ∧ i' = i ∧ d < z.nbuf ∧ i < z.bufBits
        · rw [if_pos h', if_pos (by omega), h'.2.1]
        · rw [if_neg h', if_neg (by omega)]
    · intro b' i' hi'
      rw [sbBit_setSbBit, if_neg (by omega)]
      exact hs b' i' (by omega)

end Sys2Proof.Machine
end

