-- ==== Sys2Proof/Laws/Exec.lean ====
section
/-! SUPPORT. What each command does, said once: its checks, then its effect, on the block alone. -/

namespace Sys2Proof.Machine

variable {z : Params}

@[simp] theorem exec_nop (s : Block z) : exec .nop ⟨z, s⟩ = .next ⟨z, s⟩ := rfl

@[simp] theorem exec_lload (s : Block z) :
    exec .lload ⟨z, s⟩ = .next ⟨z, checked s.loadChecks Block.lfsrLoad s⟩ := rfl

@[simp] theorem exec_lstep (s : Block z) :
    exec .lstep ⟨z, s⟩ = .next ⟨z, checked [(!s.stLv, .notInit)] Block.lfsrStep s⟩ := rfl

@[simp] theorem exec_lgen (d : BufIx) (s : Block z) :
    exec (.lgen d) ⟨z, s⟩ =
      .next ⟨z, checked (lgenChecks d s) (fun b => lfsrRecord d.toNat 0 b.glen.toNat b.lfsrLoad) s⟩ := rfl

@[simp] theorem exec_lgens (d : BufIx) (sym : Bool) (s : Block z) :
    exec (.lgens d sym) ⟨z, s⟩ = .next ⟨z, checked (lgenChecks d s) (lgensEffect d sym) s⟩ := rfl

@[simp] theorem exec_enc (d a b c : BufIx) (s : Block z) :
    exec (.enc d a b c) ⟨z, s⟩ = .next ⟨z, checked [fieldCheck z [d, a, b, c], s.mCheck]
      (fun t => encLoop d.toNat a.toNat b.toNat c.toNat 0 0 t.m.toNat t) s⟩ := rfl

@[simp] theorem exec_minit (a : BufIx) (s : Block z) :
    exec (.minit a) ⟨z, s⟩ =
      .next ⟨z, checked [fieldCheck z [a], s.mCheck, s.kCheck] (fun b => b.mInit a.toNat) s⟩ := rfl

@[simp] theorem exec_mstep (c : Bool) (s : Block z) :
    exec (.mstep c) ⟨z, s⟩ = .next ⟨z, checked
      [(!s.stMv, .notInit), (decide (z.bufBits ≤ s.pos.toNat), .matchesFull)]
      (fun b => b.mStepBody c) s⟩ := rfl

@[simp] theorem exec_match (a b : BufIx) (s : Block z) :
    exec (.matchText a b) ⟨z, s⟩ = .next ⟨z, checked
      [fieldCheck z [a, b], s.mCheck, s.kCheck, s.nCheck]
      (fun t => matchLoop a.toNat 0 t.n.toNat (t.mInit b.toNat)) s⟩ := rfl

/-- Every command answers a next state with the block's parameters. -/
theorem exec_answers (i : Instr) (s : Block z) : ∃ u : Block z, exec i ⟨z, s⟩ = .next ⟨z, u⟩ := by
  cases i <;> exact ⟨_, rfl⟩

end Sys2Proof.Machine
end

