-- ==== Sys2Proof/Laws/Lfsr.lean ====
section
/-! SUPPORT. What the LFSR unit's loops do: the recorded bits are the emitted bits, in order. -/

namespace Sys2Proof.Machine

variable {z : Params}

/-- Steps from the front: the state after t + 1 steps is the one after t steps from the next state. -/
theorem lfsrAfter_succ' {len : Nat} (deg : Nat) (poly st : BitVec len) (t : Nat) :
    lfsrAfter deg poly st (t + 1) = lfsrAfter deg poly (lfsrNext deg poly st) t := by
  induction t with
  | zero => rfl
  | succ t ih => rw [lfsrAfter, ih]; rfl

theorem lfsrAfter_add {len : Nat} (deg : Nat) (poly st : BitVec len) (t u : Nat) :
    lfsrAfter deg poly st (t + u) = lfsrAfter deg poly (lfsrAfter deg poly st t) u := by
  induction u with
  | zero => rfl
  | succ u ih => rw [← Nat.add_assoc, lfsrAfter, ih]; rfl

theorem lfsrBit_add {len : Nat} (deg : Nat) (poly st : BitVec len) (t u : Nat) :
    lfsrBit deg poly st (t + u) = lfsrBit deg poly (lfsrAfter deg poly st t) u := by
  simp [lfsrBit, lfsrAfter_add]

/-- Bit i of the next state: the parity of the tapped bits at 0, the old bit i - 1 inside the window. -/
theorem getLsbD_lfsrNext {len : Nat} (deg : Nat) (poly st : BitVec len) (i : Nat) :
    (lfsrNext deg poly st).getLsbD i =
      (if i = 0 then parity (st &&& poly)
       else decide (i < len) && decide (i < deg) && st.getLsbD (i - 1)) := by
  simp only [lfsrNext, BitVec.getLsbD_or, getLsbD_shlW]
  by_cases h : i = 0
  · subst h
    rcases len with _ | len
    · simp [parity]
    · cases parity (st &&& poly) <;> simp
  · have : 0 < i := by omega
    cases parity (st &&& poly) <;> simp [h, this]

/-- Recording `count` steps from index `i` on: only SB, S and OUT change; S is stepped `count` times
and OUT is the last emitted bit. -/
theorem lfsrRecord_frame (b : Nat) : ∀ (count i : Nat) (s : Block z),
    lfsrRecord b i count s =
      { s with
        sb := (lfsrRecord b i count s).sb
        lfsr := lfsrAfter s.adeg.toNat s.apoly s.lfsr count
        stOut := if count = 0 then s.stOut else lfsrBit s.adeg.toNat s.apoly s.lfsr (count - 1) } := by
  intro count
  induction count with
  | zero => intro i s; rfl
  | succ n ih =>
    intro i s
    rw [lfsrRecord, ih]
    rcases n with _ | n
    · rfl
    · simp only [Block.setSbBit_adeg, Block.setSbBit_apoly, Block.setSbBit_lfsr, Block.lfsrStep_adeg,
        Block.lfsrStep_apoly, Block.lfsrStep_lfsr, ← lfsrAfter_succ', lfsrBit, Nat.succ_ne_zero,
        if_false, Nat.add_sub_cancel]
      rfl

/-- The buffer bits after recording `count` steps from index `i` on. -/
theorem sbBit_lfsrRecord (b : Nat) : ∀ (count i : Nat) (s : Block z) (b' i' : Nat),
    (lfsrRecord b i count s).sbBit b' i' =
      if b' = b ∧ i ≤ i' ∧ i' < i + count ∧ b < z.nbuf ∧ i' < z.bufBits
      then lfsrBit s.adeg.toNat s.apoly s.lfsr (i' - i) else s.sbBit b' i' := by
  intro count
  induction count with
  | zero => intro i s b' i'; rw [lfsrRecord, if_neg (by omega)]
  | succ n ih =>
    intro i s b' i'
    have hs : ∀ b' i', (s.lfsrStep).sbBit b' i' = s.sbBit b' i' := fun _ _ => rfl
    simp only [lfsrRecord, ih, sbBit_setSbBit, hs, Block.setSbBit_adeg, Block.setSbBit_apoly,
      Block.setSbBit_lfsr, Block.lfsrStep_adeg, Block.lfsrStep_apoly, Block.lfsrStep_lfsr,
      Block.lfsrStep_stOut]
    by_cases h : b' = b ∧ i + 1 ≤ i' ∧ i' < i + 1 + n ∧ b < z.nbuf ∧ i' < z.bufBits
    · rw [if_pos h, if_pos (by omega)]
      obtain ⟨-, h1, -⟩ := h
      rw [show i' - i = (i' - (i + 1)) + 1 by omega, lfsrBit, lfsrBit, lfsrAfter_succ']
    · rw [if_neg h]
      by_cases h' : b' = b ∧ i' = i ∧ b < z.nbuf ∧ i < z.bufBits
      · obtain ⟨hb, hi, hn, hl⟩ := h'
        rw [if_pos ⟨hb, hi, hn, hl⟩, if_pos (by omega), hi, Nat.sub_self]; rfl
      · rw [if_neg h', if_neg (by omega)]

/-- The skip loop when the symbol first comes as bit number `j`: it takes j + 1 steps. -/
theorem lfsrSkip_found (sym : Bool) : ∀ (j bound : Nat) (s : Block z), j < bound →
    lfsrBit s.adeg.toNat s.apoly s.lfsr j = sym →
    (∀ u, u < j → lfsrBit s.adeg.toNat s.apoly s.lfsr u ≠ sym) →
    lfsrSkip sym bound s =
      { s with lfsr := lfsrAfter s.adeg.toNat s.apoly s.lfsr (j + 1), stOut := sym } := by
  intro j
  induction j with
  | zero =>
    intro bound s hb hj _
    obtain ⟨n, rfl⟩ : ∃ n, bound = n + 1 := ⟨bound - 1, by omega⟩
    have : s.lfsrStep.stOut = sym := hj
    rw [lfsrSkip]
    simp only [this, beq_self_eq_true, if_true]
    rw [← hj]; rfl
  | succ j ih =>
    intro bound s hb hj hne
    obtain ⟨n, rfl⟩ : ∃ n, bound = n + 1 := ⟨bound - 1, by omega⟩
    have h0 : s.lfsrStep.stOut ≠ sym := hne 0 (by omega)
    have hshift : ∀ u, lfsrBit s.adeg.toNat s.apoly s.lfsr (u + 1) =
        lfsrBit s.lfsrStep.adeg.toNat s.lfsrStep.apoly s.lfsrStep.lfsr u := by
      intro u; simp only [lfsrBit, lfsrAfter_succ']; rfl
    rw [lfsrSkip, if_neg (by simpa using h0), ih n s.lfsrStep (by omega) (by rw [← hshift]; exact hj)
      (fun u hu => by rw [← hshift]; exact hne (u + 1) (by omega)), lfsrAfter_succ' _ _ _ (j + 1)]
    rfl

/-- The skip loop when none of the first `bound` bits is the symbol: it takes `bound` steps. -/
theorem lfsrSkip_exhausted (sym : Bool) : ∀ (bound : Nat) (s : Block z),
    (∀ u, u < bound → lfsrBit s.adeg.toNat s.apoly s.lfsr u ≠ sym) →
    lfsrSkip sym bound s =
      { s with
        lfsr := lfsrAfter s.adeg.toNat s.apoly s.lfsr bound
        stOut := if bound = 0 then s.stOut else !sym } := by
  intro bound
  induction bound with
  | zero => intro s _; rfl
  | succ n ih =>
    intro s hne
    have h0 : s.lfsrStep.stOut ≠ sym := hne 0 (by omega)
    have hshift : ∀ u, lfsrBit s.adeg.toNat s.apoly s.lfsr (u + 1) =
        lfsrBit s.lfsrStep.adeg.toNat s.lfsrStep.apoly s.lfsrStep.lfsr u := by
      intro u; simp only [lfsrBit, lfsrAfter_succ']; rfl
    rw [lfsrSkip, if_neg (by simpa using h0),
      ih s.lfsrStep (fun u hu => by rw [← hshift]; exact hne (u + 1) (by omega)), lfsrAfter_succ']
    have hout : (if n = 0 then s.lfsrStep.stOut else !sym) = !sym := by
      split
      · cases sym <;> simp_all
      · rfl
    simp only [Block.lfsrStep_adeg, Block.lfsrStep_apoly, Block.lfsrStep_lfsr, hout, Nat.succ_ne_zero,
      if_false]
    rfl

end Sys2Proof.Machine
end

