-- ==== Sys2Proof/Laws/Map.lean ====
section
/-! SUPPORT. The address map: the function that finds a place and the offsets the spec's formulas or the
parameter ADDRESS_MAP give agree, in every legal configuration. -/

namespace Sys2Proof.Machine

variable {z : Params}

/-- The sizes of a legal configuration in words: BUF_BITS and M_MAX are positive multiples of 32. -/
theorem sizes_of_ok (h : z.ok) :
    ∃ q p, 0 < q ∧ 0 < p ∧ z.bufBits = 32 * q ∧ z.mMax = 32 * p := by
  obtain ⟨-, ⟨hb, -⟩, ⟨h2, hm⟩, hk, -⟩ := h
  exact ⟨z.bufBits / 32, z.mMax / 32, by omega, by omega, by omega, by omega⟩

/-- Word `w` of part `b`, where a part has `q` words: the byte distance gives part and word back. -/
theorem word_split {q b w : Nat} (hw : w < q) :
    (b * (4 * q) + 4 * w) / (4 * q) = b ∧ (b * (4 * q) + 4 * w) % (4 * q) / 4 = w := by
  rw [Nat.mul_comm b, Nat.mul_add_div (by omega), Nat.mul_add_mod, Nat.div_eq_of_lt (by omega),
    Nat.mod_eq_of_lt (by omega)]
  omega

/-- A word distance below `n` parts is that of a word of one of them. -/
theorem word_join {q n x : Nat} (hx : x < n * (4 * q)) (h4 : x % 4 = 0) :
    x / (4 * q) < n ∧ x % (4 * q) / 4 < q ∧ x = x / (4 * q) * (4 * q) + 4 * (x % (4 * q) / 4) := by
  have hq : 0 < 4 * q := Nat.pos_of_ne_zero fun h => by rw [h] at hx; omega
  have h1 := Nat.mod_lt x hq
  have h2 : x % (4 * q) % 4 = 0 := by rw [Nat.mod_mul_right_mod, h4]
  have h3 := Nat.div_add_mod x (4 * q)
  rw [Nat.mul_comm] at h3
  exact ⟨(Nat.div_lt_iff_lt_mul hq).mpr hx, by omega, by omega⟩

/-- A word of one of `n` parts lies within them. -/
theorem word_bound {q n b w : Nat} (hb : b < n) (hw : w < q) : b * (4 * q) + 4 * w < n * (4 * q) := by
  have := Nat.mul_le_mul_right (4 * q) (show b + 1 ≤ n from hb)
  rw [Nat.add_mul] at this
  omega

/-- Where the formulas fit, the address map's formulas and its offsets agree (20_memory.md R83 to R85). -/
theorem formulaWord_iff (hz : z.ok) (hf : z.formulasFit) {off : Nat} (h4 : off % 4 = 0) (a : ArrayWord) :
    formulaWord z off = some a ↔ z.hasWord a ∧ off = formulaOffset z a := by
  obtain ⟨q, p, hq, hp, hbuf, hm⟩ := sizes_of_ok hz
  have hbb : z.bufBytes = 4 * q := by rw [Params.bufBytes, hbuf]; omega
  have hrb : z.rowBytes = 4 * p := by rw [Params.rowBytes, hm]; omega
  obtain ⟨f1, f2, f3, f4⟩ := hf
  rw [hbb] at f1; rw [hrb] at f3 f4
  have e8 : z.bufBits / 8 = 4 * q := hbb
  have m8 : z.mMax / 8 = 4 * p := hrb
  have e32 : z.bufBits / 32 = q := by omega
  have m32 : z.mMax / 32 = p := by omega
  simp only [formulaWord, hbb, hrb]
  constructor
  · split_ifs with h1 h2 h3 h5
    · rintro ⟨⟩
      obtain ⟨j1, j2, j3⟩ := word_join (q := q) (n := z.nbuf) (x := off - 0x400) (by omega) (by omega)
      simp only [Params.hasWord, formulaOffset, e32, e8]
      exact ⟨⟨j1, j2⟩, by omega⟩
    · rintro ⟨⟩
      simp only [Params.hasWord, formulaOffset]; omega
    · rintro ⟨⟩
      simp only [Params.hasWord, formulaOffset, m32, m8, decide_eq_true_eq]
      by_cases hc : 4 * p ≤ off - 0x1000
      · have : (off - 0x1000) % (4 * p) = off - 0x1000 - 4 * p := by
          rw [Nat.mod_eq_sub_mod hc, Nat.mod_eq_of_lt (by omega)]
        rw [this, if_pos hc]; omega
      · rw [Nat.mod_eq_of_lt (by omega), if_neg hc]; omega
    · rintro ⟨⟩
      obtain ⟨j1, j2, j3⟩ := word_join (q := p) (n := z.kMax + 1) (x := off - 0x2000) (by omega) (by omega)
      simp only [Params.hasWord, formulaOffset, m32, m8]
      exact ⟨⟨by omega, j2⟩, by omega⟩
    · rintro ⟨⟩
  · cases a with
    | sb b w =>
      simp only [Params.hasWord, formulaOffset, e32, e8]
      rintro ⟨⟨hb, hw⟩, ho⟩
      have hlt := word_bound hb hw
      obtain ⟨s1, s2⟩ := word_split (b := b) hw
      rw [if_pos (by omega), show off - 0x400 = b * (4 * q) + 4 * w by omega, s1, s2]
    | levels i =>
      simp only [Params.hasWord, formulaOffset]
      rintro ⟨hi, ho⟩
      rw [if_neg (by omega), if_pos (by omega), show (off - 0x800) / 4 = i by omega]
    | mask c w =>
      simp only [Params.hasWord, formulaOffset, m32, m8]
      rintro ⟨hw, ho⟩
      cases c
      · simp only [Bool.false_eq_true, if_false] at ho
        rw [if_neg (by omega), if_neg (by omega), if_pos (by omega), decide_eq_false (by omega),
          Nat.mod_eq_of_lt (by omega), show (off - 0x1000) / 4 = w by omega]
      · simp only [if_true] at ho
        rw [if_neg (by omega), if_neg (by omega), if_pos (by omega), decide_eq_true (by omega),
          Nat.mod_eq_sub_mod (by omega), Nat.mod_eq_of_lt (by omega),
          show (off - 0x1000 - 4 * p) / 4 = w by omega]
    | row k w =>
      simp only [Params.hasWord, formulaOffset, m32, m8]
      rintro ⟨⟨hk, hw⟩, ho⟩
      have hlt := word_bound (n := z.kMax + 1) (show k < z.kMax + 1 by omega) hw
      obtain ⟨s1, s2⟩ := word_split (b := k) hw
      rw [if_neg (by omega), if_neg (by omega), if_neg (by omega), if_pos (by omega),
        show off - 0x2000 = k * (4 * p) + 4 * w by omega, s1, s2]

/-- In a list of pairs with no key twice, the entry found is the entry listed. -/
theorem lookup_iff {β : Type} (l : List (Nat × β)) (h : (l.map Prod.fst).Nodup) (k : Nat) (v : β) :
    l.lookup k = some v ↔ (k, v) ∈ l := by
  induction l with
  | nil => simp
  | cons e rest ih =>
    obtain ⟨k', v'⟩ := e
    simp only [List.map_cons, List.nodup_cons] at h
    rw [List.lookup_cons]
    by_cases hk : k = k'
    · subst hk
      have : (k, v) ∉ rest := fun hm => h.1 (List.mem_map_of_mem (f := Prod.fst) hm)
      simp only [beq_self_eq_true, List.mem_cons, this, or_false, Prod.mk.injEq, true_and]
      exact ⟨fun h => (Option.some.inj h).symm, fun h => by rw [h]⟩
    · rw [beq_eq_false_iff_ne.mpr hk, ih h.2]
      simp [hk]

/-- Where the map puts an array word: an aligned offset of the window above the registers. -/
theorem wordAt_offset (hz : z.ok) {off : Nat} {a : ArrayWord} (h : wordAt z off a) :
    off % 4 = 0 ∧ 0x054 ≤ off ∧ off < 0x4000 ∧ z.hasWord a := by
  rw [wordAt] at h
  split_ifs at h with hf
  · obtain ⟨q, p, hq, hp, hbuf, hm⟩ := sizes_of_ok hz
    obtain ⟨hw, ho⟩ := h
    obtain ⟨f1, f2, f3, f4⟩ := hf
    have e8 : z.bufBits / 8 = 4 * q := by omega
    have m8 : z.mMax / 8 = 4 * p := by omega
    have e32 : z.bufBits / 32 = q := by omega
    have m32 : z.mMax / 32 = p := by omega
    rw [Params.bufBytes, e8] at f1; rw [Params.rowBytes, m8] at f3 f4
    refine ⟨?_, ?_, ?_, hw⟩ <;> cases a <;>
      simp only [Params.hasWord, formulaOffset, e8, m8, e32, m32] at hw ho
    case refine_1.sb b w => rw [Nat.mul_left_comm] at ho; omega
    case refine_1.row k w => rw [Nat.mul_left_comm] at ho; omega
    case refine_3.sb b w => have := word_bound hw.1 hw.2; omega
    case refine_3.row k w => have := word_bound (n := z.kMax + 1) (show k < z.kMax + 1 by omega) hw.2; omega
    all_goals first | omega | (split_ifs at ho <;> omega)
  · obtain ⟨h1, h2, h3, h4⟩ := hz.2.2.2.2.2.1 _ h
    exact ⟨h3, h1, h2, h4⟩

/-- The map's function and the map's places agree (20_memory.md R87). -/
theorem placeAt_array_iff (hz : z.ok) {off : Nat} (h4 : off % 4 = 0) (a : ArrayWord) :
    placeAt z off = some (.array a) ↔ wordAt z off a := by
  rw [placeAt]
  by_cases hr : off < 0x054
  · rw [if_pos hr]
    constructor
    · intro h; cases hg : regMap[off / 4]? <;> simp [hg] at h
    · intro h; have := wordAt_offset hz h; omega
  · rw [if_neg hr, wordAt]
    split_ifs with hf
    · rw [← formulaWord_iff hz hf h4 a]; simp
    · rw [← lookup_iff _ hz.2.2.2.2.2.2]; simp

/-- Where the map puts an array word, the access finds it. -/
theorem placeAt_of_wordAt (hz : z.ok) {off : Nat} {a : ArrayWord} (h : wordAt z off a) :
    placeAt z off = some (.array a) :=
  (placeAt_array_iff hz (wordAt_offset hz h).1 a).mpr h

/-- A reserved aligned offset is no place (20_memory.md R87). -/
theorem placeAt_reserved (hz : z.ok) {off : Nat} (h4 : off % 4 = 0) (h : reservedAt z off) :
    placeAt z off = none := by
  cases hp : placeAt z off with
  | none => rfl
  | some p =>
    cases p with
    | array a => exact absurd ((placeAt_array_iff hz h4 a).mp hp) (h.2 a)
    | reg r =>
      rw [placeAt, if_neg (by have := h.1; omega)] at hp
      split_ifs at hp <;> simp at hp

end Sys2Proof.Machine
end

