-- ==== Sys2Proof/Laws/Matcher.lean ====
section
/-! SUPPORT. What the matcher unit's operations do: masks and initial rows bit by bit, the rows after one
symbol, the level, and the frame of a whole text. -/

namespace Sys2Proof.Machine

variable {z : Params}

/-- The bits of an alphabet mask in both conventions. -/
theorem getLsbD_buildMask (pat : Nat → Bool) (am : Nat) (aso c : Bool) (j : Nat) :
    (buildMask (z := z) pat am aso c).getLsbD j =
      (decide (j < z.mMax) && decide (j < am) && ((pat j == c) != aso)) := by
  cases aso <;> by_cases h : j < z.mMax <;> by_cases h' : j < am <;> simp [buildMask, h, h', bne]

/-- The bits of an initial row in both conventions. -/
theorem getLsbD_initRow (am : Nat) (aso : Bool) (k j : Nat) :
    (initRow (z := z) am aso k).getLsbD j =
      (decide (j < z.mMax) && (decide (j < k) != (aso && decide (j < am)))) := by
  cases aso <;> by_cases h : j < z.mMax <;> simp [initRow, h, bne]

/-- The rows after BuildRows. -/
theorem rowAt_buildRows (am ak : Nat) (aso : Bool) (old : Rows z) (k : Nat) :
    rowAt (buildRows am ak aso old) k =
      if k ≤ ak ∧ k ≤ z.kMax then initRow am aso k else rowAt old k := by
  rw [buildRows, rowAt_vecOf]
  by_cases h : k ≤ z.kMax
  · by_cases h' : k ≤ ak <;> simp [h, h']
  · rw [if_neg h, if_neg (by omega), rowAt_out _ _ (by omega)]

/-- The rows a symbol does not reach, and each row it reaches from the row below before and after. -/
theorem rowAt_stepRowsFrom (f : Row z → Row z → Row z → Row z) :
    ∀ (count i : Nat) (old new : Row z) (r : Rows z),
    i + count ≤ z.kMax + 1 → ∀ k,
    rowAt (stepRowsFrom f i count old new r) k =
      if k < i ∨ i + count ≤ k then rowAt r k
      else if k = i then f old new (rowAt r i)
      else f (rowAt r (k - 1)) (rowAt (stepRowsFrom f i count old new r) (k - 1)) (rowAt r k) := by
  intro count
  induction count with
  | zero => intro i old new r _ k; rw [stepRowsFrom, if_pos (by omega)]
  | succ n ih =>
    intro i old new r hb k
    have hset : ∀ j, rowAt (r.setIfInBounds i (f old new (rowAt r i))) j =
        if j = i then f old new (rowAt r i) else rowAt r j := by
      intro j; rw [rowAt_set]
      by_cases h : j = i
      · rw [if_pos ⟨h, by omega⟩, if_pos h]
      · rw [if_neg (by tauto), if_neg h]
    rw [stepRowsFrom]
    have ih' := ih (i + 1) (rowAt r i) (f old new (rowAt r i))
      (r.setIfInBounds i (f old new (rowAt r i))) (by omega)
    by_cases h1 : k < i ∨ i + (n + 1) ≤ k
    · rw [if_pos h1, ih', if_pos (by omega), hset, if_neg (by omega)]
    · rw [if_neg h1]
      by_cases h2 : k = i
      · rw [if_pos h2, ih', if_pos (by omega), hset, if_pos h2]
      · rw [if_neg h2, ih', if_neg (by omega)]
        by_cases h3 : k = i + 1
        · have hi : rowAt (stepRowsFrom f (i + 1) n (rowAt r i) (f old new (rowAt r i))
              (r.setIfInBounds i (f old new (rowAt r i)))) (k - 1) = f old new (rowAt r i) := by
            rw [ih', if_pos (by omega), hset, if_pos (by omega)]
          rw [if_pos h3, hi, h3, hset, if_neg (by omega)]; rfl
        · rw [if_neg h3, hset, if_neg (by omega), hset, if_neg (by omega)]

/-- Row 0 after one symbol. -/
theorem rowK_updateRows_zero (s : Block z) (c : Bool) (hk : s.ak.toNat ≤ z.kMax) :
    (s.updateRows c).rowK 0 = stepRow0 s.am.toNat s.aso (s.mask c) (s.rowK 0) := by
  simp only [Block.rowK, Block.updateRows_row]
  rw [rowAt_stepRowsFrom _ _ _ _ _ _ (by omega), if_pos (by omega), rowAt_set, if_pos ⟨rfl, by omega⟩]

/-- Row k of 1..AK after one symbol, from the row below before and after it. -/
theorem rowK_updateRows_succ (s : Block z) (c : Bool) (hk : s.ak.toNat ≤ z.kMax) (k : Nat)
    (h : k < s.ak.toNat) :
    (s.updateRows c).rowK (k + 1) =
      stepRowI s.am.toNat s.aso s.ains (s.mask c) (s.rowK k) ((s.updateRows c).rowK k) (s.rowK (k + 1)) := by
  have h0 := rowK_updateRows_zero s c hk
  have hset : ∀ j v, j ≠ 0 → rowAt (s.row.setIfInBounds 0 v) j = rowAt s.row j := by
    intro j v hj; rw [rowAt_set, if_neg (by tauto)]
  rcases k with _ | k
  · rw [h0]
    simp only [Block.rowK, Block.updateRows_row]
    rw [rowAt_stepRowsFrom _ _ _ _ _ _ (by omega), if_neg (by omega), if_pos rfl, hset _ _ (by omega)]
  · simp only [Block.rowK, Block.updateRows_row]
    rw [rowAt_stepRowsFrom _ _ _ _ _ _ (by omega), if_neg (by omega), if_neg (by omega),
      hset _ _ (by omega), hset _ _ (by omega)]
    rfl

/-- A row above AK is not touched by a symbol. -/
theorem rowK_updateRows_above (s : Block z) (c : Bool) (hk : s.ak.toNat ≤ z.kMax) (k : Nat)
    (h : s.ak.toNat < k) : (s.updateRows c).rowK k = s.rowK k := by
  simp only [Block.rowK, Block.updateRows_row]
  rw [rowAt_stepRowsFrom _ _ _ _ _ _ (by omega), if_pos (by omega), rowAt_set, if_neg (by omega)]

/-- The scan: it ends at the first signalling row, or at the last index where none before it signals. -/
theorem scanTop_spec (s : Block z) : ∀ (count i : Nat),
    i ≤ s.scanTop i count ∧ s.scanTop i count ≤ i + count ∧
      (∀ j, i ≤ j → j < s.scanTop i count → s.top j = false) ∧
      (s.scanTop i count < i + count → s.top (s.scanTop i count) = true) := by
  intro count
  induction count with
  | zero => intro i; exact ⟨Nat.le_refl _, Nat.le_refl _, fun j h h' => absurd h' (by simp [Block.scanTop]; omega),
      fun h => absurd h (by simp [Block.scanTop])⟩
  | succ n ih =>
    intro i
    rw [Block.scanTop]
    by_cases h : s.top i = true
    · rw [if_pos h]; exact ⟨Nat.le_refl _, by omega, fun j h1 h2 => absurd h2 (by omega), fun _ => h⟩
    · rw [if_neg h]
      obtain ⟨h1, h2, h3, h4⟩ := ih (i + 1)
      refine ⟨by omega, by omega, fun j hj hlt => ?_, fun hlt => h4 (by omega)⟩
      by_cases hji : j = i
      · subst hji; simpa using h
      · exact h3 j (by omega) hlt

/-- The level of the current rows: AM where row AK does not signal, else the least signalling row. -/
theorem curLevel_cases (s : Block z) :
    (s.top s.ak.toNat = false ∧ s.curLevel = s.am) ∨
    (s.curLevel.toNat ≤ s.ak.toNat ∧ s.top s.curLevel.toNat = true ∧
      ∀ j, j < s.curLevel.toNat → s.top j = false) := by
  rw [Block.curLevel]
  by_cases h : s.top s.ak.toNat = true
  · right
    obtain ⟨-, h2, h3, h4⟩ := scanTop_spec s s.ak.toNat 0
    have hlt := s.ak.isLt
    have hn : (BitVec.ofNat 16 (s.scanTop 0 s.ak.toNat)).toNat = s.scanTop 0 s.ak.toNat := by
      rw [BitVec.toNat_ofNat, Nat.mod_eq_of_lt (by omega)]
    rw [if_pos h, hn]
    refine ⟨by omega, ?_, fun j hj => h3 j (Nat.zero_le j) hj⟩
    by_cases he : s.scanTop 0 s.ak.toNat < 0 + s.ak.toNat
    · exact h4 he
    · rw [show s.scanTop 0 s.ak.toNat = s.ak.toNat by omega]; exact h
  · left; exact ⟨by simpa using h, if_neg h⟩

/-! ### The fields a symbol and a text leave alone -/

/-- One symbol changes ROW, MATCHES, LASTLVL, MINLVL, ANY and P only. -/
theorem mStepBody_frame (s : Block z) (c : Bool) :
    s.mStepBody c =
      { s with
        row := (s.updateRows c).row
        matchLvls := s.matchLvls.setIfInBounds s.pos.toNat (s.updateRows c).curLevel
        lastLvl := (s.updateRows c).curLevel
        minLvl := if (s.updateRows c).curLevel.toNat < s.minLvl.toNat
          then (s.updateRows c).curLevel else s.minLvl
        stAny := s.stAny || decide ((s.updateRows c).curLevel.toNat < s.am.toNat)
        pos := s.pos + 1 } := rfl

/-- A text changes ROW, MATCHES, LASTLVL, MINLVL, ANY and P only. -/
theorem matchLoop_frame (a : Nat) : ∀ (count p : Nat) (s : Block z),
    matchLoop a p count s =
      { s with
        row := (matchLoop a p count s).row
        matchLvls := (matchLoop a p count s).matchLvls
        lastLvl := (matchLoop a p count s).lastLvl
        minLvl := (matchLoop a p count s).minLvl
        stAny := (matchLoop a p count s).stAny
        pos := (matchLoop a p count s).pos } := by
  intro count
  induction count with
  | zero => intro p s; rfl
  | succ n ih => intro p s; rw [matchLoop, ih]; rfl

/-- What every symbol keeps, a text keeps. -/
theorem matchLoop_induct (P : Block z → Prop) (a : Nat) (h : ∀ s c, P s → P (s.mStepBody c)) :
    ∀ (count p : Nat) (s : Block z), P s → P (matchLoop a p count s) := by
  intro count
  induction count with
  | zero => intro p s hs; exact hs
  | succ n ih => intro p s hs; exact ih _ _ (h _ _ hs)

/-- A text of `n + 1` symbols: the first n, then the last. -/
theorem matchLoop_succ (a : Nat) : ∀ (n p : Nat) (s : Block z),
    matchLoop a p (n + 1) s = (matchLoop a p n s).mStepBody (s.sbBit a (p + n)) := by
  intro n
  induction n with
  | zero => intro p s; rfl
  | succ n ih =>
    intro p s
    rw [matchLoop, ih, matchLoop]
    have : (s.mStepBody (s.sbBit a p)).sbBit a (p + 1 + n) = s.sbBit a (p + (n + 1)) := by
      rw [show p + 1 + n = p + (n + 1) by omega]; rfl
    rw [this]

end Sys2Proof.Machine
end

