-- ==== Sys2Proof/Laws/Operands.lean ====
section
/-! SUPPORT. Each check of a command passes exactly when the operand is legal. -/

namespace Sys2Proof.Machine

variable {z : Params}

theorem bufOk_iff (b : BufIx) : bufOk z.nbuf b = true ↔ bufLegal z b := by simp [bufOk, bufLegal]

/-- The field check fails exactly when some operand names no buffer. -/
theorem fieldCheck_fst (bs : List BufIx) : (fieldCheck z bs).1 = false ↔ ∀ b ∈ bs, bufLegal z b := by
  simp [fieldCheck, bufOk_iff]

/-- The preset table has exactly the degrees 11 and 16. -/
theorem presetPoly_isNone (d : Nat) : (presetPoly d).isNone = true ↔ d ≠ 11 ∧ d ≠ 16 := by
  unfold presetPoly
  split <;> simp_all

theorem badDegree_iff (s : Block z) : s.badDegree = false ↔ s.degreeLegal := by
  have h11 : s.deg = 11 ↔ s.deg.toNat = 11 := by rw [← BitVec.toNat_inj]; rfl
  have h16 : s.deg = 16 ↔ s.deg.toNat = 16 := by rw [← BitVec.toNat_inj]; rfl
  rw [Block.badDegree, Block.degreeLegal, h11, h16]
  cases s.cfgPreset
  · simp; omega
  · have := presetPoly_isNone s.deg.toNat
    simp only [if_true, Bool.true_eq_false, false_implies, true_implies, and_true]
    rw [← Bool.not_eq_true, this]; tauto

theorem badPoly_iff (s : Block z) : s.badPoly = false ↔ s.polyLegal := by
  rw [Block.badPoly, Block.polyLegal]
  cases s.cfgPreset <;> simp

theorem badSeed_iff (s : Block z) : s.badSeed = false ↔ s.seedLegal := by
  simp [Block.badSeed, Block.seedLegal]

/-- The load checks pass exactly on a legal configuration. -/
theorem loadChecks_pass (s : Block z) : (∀ c ∈ s.loadChecks, c.1 = false) ↔ s.loadLegal := by
  simp [Block.loadChecks, Block.loadLegal, badDegree_iff, badPoly_iff, badSeed_iff]

theorem glenCheck_fst (s : Block z) : s.glenCheck.1 = false ↔ s.glenLegal := by
  simp [Block.glenCheck, Block.glenLegal]; omega

theorem mCheck_fst (s : Block z) : s.mCheck.1 = false ↔ s.mLegal := by
  simp [Block.mCheck, Block.mLegal]; omega

theorem kCheck_fst (s : Block z) : s.kCheck.1 = false ↔ s.kLegal := by
  simp [Block.kCheck, Block.kLegal]

theorem nCheck_fst (s : Block z) : s.nCheck.1 = false ↔ s.nLegal := by
  simp [Block.nCheck, Block.nLegal]

/-- On a legal degree the latched polynomial is the preset's constant or POLY. -/
theorem effPoly_eq (s : Block z) (h : s.degreeLegal) : s.effPoly = s.loadPoly := by
  rw [Block.effPoly, Block.loadPoly]
  cases hp : s.cfgPreset
  · rfl
  · rcases h.1 hp with h | h <;> rw [h] <;> rfl

end Sys2Proof.Machine
end

