-- ==== Sys2Proof/Laws/PerInstr.lean ====
section
/-! SUPPORT. One family of statements over the syntax of every command: its word stands in its own row of
30_encoding.md R113. -/

namespace Sys2Proof.Laws

/-- The opcode of a command (30_encoding.md R112). -/
def opcodeOf : Instr → Opcode
  | .nop => .nop
  | .lload => .lload
  | .lstep => .lstep
  | .lgen _ => .lgen
  | .lgens _ _ => .lgens
  | .enc _ _ _ _ => .enc
  | .minit _ => .minit
  | .mstep _ => .mstep
  | .matchText _ _ => .matchText

namespace EncodedInOwnRow

/-- The word of a well-formed command matches the MASK and MATCH of its own row and no other row's
(30_encoding.md R113). -/
def Statement (i : Instr) : Prop :=
  ∀ nbuf : Nat, nbuf ≤ 8 → i.wellFormed nbuf = true →
    ∀ op : Opcode, encode i &&& rowMask op = rowMatch op ↔ op = opcodeOf i

/-- A command well formed for at most eight buffers is well formed for eight, where MASK is exact. -/
theorem wellFormed_eight {nbuf : Nat} (hn : nbuf ≤ 8) {i : Instr} (h : i.wellFormed nbuf = true) :
    i.wellFormed 8 = true := by
  cases i <;> simp only [Instr.wellFormed, bufOk, Bool.and_eq_true, decide_eq_true_eq] at h ⊢ <;> omega

/-- A statement for eight buffers is one for every number of them. -/
theorem of_eight {i : Instr} (h : i.wellFormed 8 = true →
    ∀ op : Opcode, encode i &&& rowMask op = rowMatch op ↔ op = opcodeOf i) : Statement i :=
  fun _ hn hw => h (wellFormed_eight hn hw)

theorem nop : Statement .nop := by
  refine of_eight ?_; intro _ op; cases op <;> decide

theorem lload : Statement .lload := by
  refine of_eight ?_; intro _ op; cases op <;> decide

theorem lstep : Statement .lstep := by
  refine of_eight ?_; intro _ op; cases op <;> decide

theorem lgen (d : BufIx) : Statement (.lgen d) := by
  refine of_eight ?_; intro h op; revert d; cases op <;> decide

theorem lgens (d : BufIx) (sym : Bool) : Statement (.lgens d sym) := by
  refine of_eight ?_; intro h op; revert d sym; cases op <;> decide

/-- The opcode byte of the word of ENC is 0x20, whatever its operands. -/
theorem enc_fieldOpc (d a b c : BufIx) : fieldOpc (encode (.enc d a b c)) = 0x20 := by
  have h : ∀ (f : BufField) (x : BufIx), (placeBuf f x).extractLsb' 24 8 = 0 := by
    intro f; cases f <;> decide
  simp only [fieldOpc, encode, BitVec.extractLsb'_or, h]
  decide

/-- A buffer operand below NBUF sets no bit of ENC's MASK column. -/
theorem enc_field_masked (f : BufField) (x : BufIx) (h : bufOk 8 x = true) :
    placeBuf f x &&& rowMask .enc = 0 := by
  revert x; cases f <;> decide

theorem enc (d a b c : BufIx) : Statement (.enc d a b c) := by
  refine of_eight ?_; intro h op
  simp only [Instr.wellFormed, Bool.and_eq_true] at h
  obtain ⟨⟨⟨hd, ha⟩, hb⟩, hc⟩ := h
  refine ⟨fun hm => ?_, fun ho => ?_⟩
  · have hx := congrArg (fun w : Word => w.extractLsb' 24 8) hm
    have hf := enc_fieldOpc d a b c
    rw [fieldOpc] at hf
    simp only [BitVec.extractLsb'_and, hf] at hx
    show op = .enc
    revert hx; cases op <;> decide
  · rw [ho]
    simp only [encode, opcodeOf, BitVec.and_or_distrib_right, enc_field_masked _ _ hd,
      enc_field_masked _ _ ha, enc_field_masked _ _ hb, enc_field_masked _ _ hc]
    decide

theorem minit (a : BufIx) : Statement (.minit a) := by
  refine of_eight ?_; intro h op; revert a; cases op <;> decide

theorem mstep (c : Bool) : Statement (.mstep c) := by
  refine of_eight ?_; intro _ op; revert c; cases op <;> decide

theorem matchText (a b : BufIx) : Statement (.matchText a b) := by
  refine of_eight ?_; intro h op; revert a b; cases op <;> decide

end EncodedInOwnRow

end Sys2Proof.Laws
end

