-- ==== Sys2Proof/Laws/Port.lean ====
section
/-! SUPPORT. What the host port and the resets can do, said once for each shared operation. -/

namespace Sys2Proof.Machine

variable {z : Params}

/-- A word write to SB changes nothing but SB. -/
theorem writeBits_frame (v : Word) (b : Nat) : ∀ (count i t : Nat) (s : Block z),
    writeBits v b i t count s = { s with sb := (writeBits v b i t count s).sb } := by
  intro count
  induction count with
  | zero => intro i t s; rfl
  | succ n ih => intro i t s; rw [writeBits, ih]; rfl

/-- The buffer bits after `count` bits of `v` are written from index `i` on. -/
theorem sbBit_writeBits (v : Word) (b : Nat) : ∀ (count i t : Nat) (s : Block z) (b' i' : Nat),
    (writeBits v b i t count s).sbBit b' i' =
      if b' = b ∧ i ≤ i' ∧ i' < i + count ∧ b < z.nbuf ∧ i' < z.bufBits
      then v.getLsbD (t + (i' - i)) else s.sbBit b' i' := by
  intro count
  induction count with
  | zero => intro i t s b' i'; rw [writeBits, if_neg (by omega)]
  | succ n ih =>
    intro i t s b' i'
    rw [writeBits, ih, sbBit_setSbBit]
    by_cases h : b' = b ∧ i + 1 ≤ i' ∧ i' < i + 1 + n ∧ b < z.nbuf ∧ i' < z.bufBits
    · rw [if_pos h, if_pos (by omega), show t + 1 + (i' - (i + 1)) = t + (i' - i) by omega]
    · rw [if_neg h]
      by_cases h' : b' = b ∧ i' = i ∧ b < z.nbuf ∧ i < z.bufBits
      · rw [if_pos h', if_pos (by omega), h'.2.1, Nat.sub_self, Nat.add_zero]
      · rw [if_neg h', if_neg (by omega)]

/-- A BusError changes nothing but the port's answer. -/
theorem busError_frame (s : Block z) (kind : AccessKind) :
    s.busError kind = { s with resp := (s.busError kind).resp } := by
  cases kind <;> rfl

/-- A read changes nothing but the port's answer. -/
theorem portAccess_read (s : Block z) (off size : Nat) :
    s.portAccess off size .read = { s with resp := (s.portAccess off size .read).resp } := by
  unfold Block.portAccess
  split
  · rfl
  · split
    · rfl
    · split <;> rfl

/-- Everything a write inside the window can do: be refused, or change one writable place. -/
theorem portAccess_write (s : Block z) (off size : Nat) (v : Word) :
    s.portAccess off size (.write v) = s.busError (.write v) ∨
    ∃ p, placeAt z off = some p ∧ size = 4 ∧ off % 4 = 0 ∧ readOnly p = false ∧
      (s.stBusy = true → allowedWhileBusy (.write v) p = true) ∧
      s.portAccess off size (.write v) = { s.writePlace v p with resp := .writeDone } := by
  unfold Block.portAccess
  split
  · exact .inl rfl
  · rename_i h
    split
    · exact .inl rfl
    · rename_i p hp
      split
      · exact .inl rfl
      · rename_i hb
        by_cases hr : readOnly p = true
        · exact .inl (if_pos hr)
        · refine .inr ⟨p, hp, by omega, by omega, by simpa using hr, fun h' => ?_, if_neg hr⟩
          by_contra hc
          exact hb (by simp [h', hc])

/-- Everything a write to a place can do to the block. -/
theorem writePlace_cases (s : Block z) (v : Word) (p : Place) :
    s.writePlace v p = s ∨
    (p = .reg .cmd ∧ s.writePlace v p = s.issue v) ∨
    (p = .reg .ctrl ∧ v.getLsbD 1 = true ∧ s.writePlace v p = s.softReset) ∨
    (p = .reg .ctrl ∧ v.getLsbD 1 = false ∧ s.writePlace v p = { s with ie := v.getLsbD 0 }) ∨
    (p = .reg .status ∧ s.writePlace v p = s.writeStatus v) ∨
    (∃ b w, p = .array (.sb b w) ∧ s.writePlace v p = { s with sb := (s.writePlace v p).sb }) ∨
    (∃ r, p = .reg r ∧ r ≠ .ctrl ∧ r ≠ .status ∧ s.writePlace v p =
      { s with
        cfgShiftOr := (s.writePlace v p).cfgShiftOr, cfgAllowIns := (s.writePlace v p).cfgAllowIns
        cfgPreset := (s.writePlace v p).cfgPreset, deg := (s.writePlace v p).deg
        poly := (s.writePlace v p).poly, seed := (s.writePlace v p).seed
        glen := (s.writePlace v p).glen, m := (s.writePlace v p).m, n := (s.writePlace v p).n
        k := (s.writePlace v p).k }) := by
  cases p with
  | reg r =>
    cases r
    case cmd => exact .inr (.inl ⟨rfl, rfl⟩)
    case ctrl =>
      by_cases h : v.getLsbD 1 = true
      · exact .inr (.inr (.inl ⟨rfl, h, if_pos h⟩))
      · exact .inr (.inr (.inr (.inl ⟨rfl, by simpa using h, if_neg h⟩)))
    case status => exact .inr (.inr (.inr (.inr (.inl ⟨rfl, rfl⟩))))
    case cfg | deg | poly | seed | glen | m | n | k =>
      exact .inr (.inr (.inr (.inr (.inr (.inr ⟨_, rfl, by decide, by decide, rfl⟩)))))
    all_goals exact .inl rfl
  | array a =>
    cases a with
    | sb b w =>
      exact .inr (.inr (.inr (.inr (.inr (.inl ⟨b, w, rfl, writeBits_frame v b 32 (32 * w) 0 s⟩)))))
    | levels q => exact .inl rfl
    | mask c w => exact .inl rfl
    | row k w => exact .inl rfl

/-! ### Resets -/

/-- The buffer bits after the write set of an abandoned command became unspecified. -/
theorem sbBit_scramble (s : Block z) (ws : WriteSet) (b i : Nat) :
    (s.scramble ws).sbBit b i =
      if ws.buf = some b ∧ i < ws.bufLen ∧ b < z.nbuf ∧ i < z.bufBits
      then Config.freeBit s.draws b i else s.sbBit b i := by
  by_cases h : b < z.nbuf ∧ i < z.bufBits
  · have : (s.scramble ws).sbBit b i =
        if ws.buf = some b ∧ i < ws.bufLen then Config.freeBit s.draws b i else s.sbBit b i := by
      simp only [Block.scramble]
      rw [Block.sbBit]
      simp only [getElem?_vecOf, h.1, h.2, if_true, Option.bind_some, Option.getD_some]
    rw [this]
    exact if_congr (by tauto) rfl rfl
  · rw [sbBit_out _ _ _ h, if_neg (by tauto), sbBit_out _ _ _ h]

/-- The rows after the write set of an abandoned command became unspecified. -/
theorem rowK_scramble (s : Block z) (ws : WriteSet) (k : Nat) :
    (s.scramble ws).rowK k =
      if k < ws.rows ∧ k ≤ z.kMax then Config.freeRow z.mMax s.draws k else s.rowK k := by
  simp only [Block.scramble, Block.rowK, rowAt_vecOf]
  by_cases h : k ≤ z.kMax
  · by_cases h' : k < ws.rows <;> simp [h, h']
  · rw [if_neg h, if_neg (by tauto), rowAt_out _ _ (by omega)]

/-- The entries of MATCHES after the write set of an abandoned command became unspecified. -/
theorem level_scramble (s : Block z) (ws : WriteSet) (p : Nat) :
    (s.scramble ws).level p =
      if ws.lvlFrom ≤ p ∧ p < ws.lvlFrom + ws.lvls ∧ p < z.bufBits
      then Config.freeLevel s.draws p else s.level p := by
  have hl : ∀ t : Block z, ¬ p < z.bufBits → t.level p = 0 := by
    intro t h; simp [Block.level, Vector.getElem?_eq_none (Nat.le_of_not_lt h)]
  by_cases h : p < z.bufBits
  · have : (s.scramble ws).level p =
        if ws.lvlFrom ≤ p ∧ p < ws.lvlFrom + ws.lvls then Config.freeLevel s.draws p else s.level p := by
      simp only [Block.scramble]
      rw [Block.level]
      simp only [getElem?_vecOf, h, if_true, Option.getD_some]
    rw [this]
    exact if_congr (by tauto) rfl rfl
  · rw [hl _ h, if_neg (by tauto), hl _ h]

/-- A soft reset of an idle block resets the registers and nothing else. -/
theorem softReset_idle {s : Block z} (h : s.stBusy = false) : s.softReset = s.resetRegisters := by
  simp [Block.softReset, h]

/-- A soft reset of a busy block scrambles the abandoned command's write set and resets the registers. -/
theorem softReset_busy {s : Block z} (h : s.stBusy = true) :
    s.softReset = (s.scramble s.writeSet).resetRegisters := by
  simp [Block.softReset, h]

/-- A soft reset in every case: registers at their reset values; no turn and no answer changes. -/
theorem softReset_frame (s : Block z) :
    s.softReset = { (Block.powerOn z) with
      sb := s.softReset.sb, mask0 := s.softReset.mask0, mask1 := s.softReset.mask1
      row := s.softReset.row, matchLvls := s.softReset.matchLvls
      inbox := s.inbox, resp := s.resp, draws := s.softReset.draws } := by
  cases h : s.stBusy
  · rw [softReset_idle h]; rfl
  · rw [softReset_busy h]; rfl

/-- A 32-bit aligned read of a place of an idle block. -/
theorem portAccess_read_idle {s : Block z} {off : Nat} {p : Place} (hb : s.stBusy = false)
    (h4 : off % 4 = 0) (hp : placeAt z off = some p) :
    s.portAccess off 4 .read = { s with resp := .readData (s.readPlace p) } := by
  rw [Block.portAccess, if_neg (by omega), hp]; simp [hb]

/-- A 32-bit aligned write of a place of an idle block. -/
theorem portAccess_write_idle {s : Block z} {off : Nat} {p : Place} (v : Word) (hb : s.stBusy = false)
    (h4 : off % 4 = 0) (hp : placeAt z off = some p) :
    s.portAccess off 4 (.write v) =
      if readOnly p then s.busError (.write v) else { s.writePlace v p with resp := .writeDone } := by
  rw [Block.portAccess, if_neg (by omega), hp]; simp [hb]

/-- A read of an array word of an idle block, wherever the map puts it. -/
theorem portAccess_read_word (hz : z.ok) {s : Block z} {off : Nat} {a : ArrayWord}
    (hb : s.stBusy = false) (h : wordAt z off a) :
    s.portAccess off 4 .read = { s with resp := .readData (s.readPlace (.array a)) } :=
  portAccess_read_idle hb (wordAt_offset hz h).1 (placeAt_of_wordAt hz h)

/-- A write of a buffer word of an idle block, wherever the map puts it. -/
theorem portAccess_write_sb (hz : z.ok) {s : Block z} {off b w : Nat} (v : Word)
    (hb : s.stBusy = false) (h : wordAt z off (.sb b w)) :
    s.portAccess off 4 (.write v) = { writeBits v b (32 * w) 0 32 s with resp := .writeDone } := by
  rw [portAccess_write_idle v hb (wordAt_offset hz h).1 (placeAt_of_wordAt hz h),
    if_neg (by simp [readOnly]), Block.writePlace]

/-- An access that the map does not place, of another width or misaligned. -/
theorem portAccess_refused {s : Block z} {off size : Nat} (kind : AccessKind)
    (h : size ≠ 4 ∨ off % 4 ≠ 0 ∨ placeAt z off = none) :
    s.portAccess off size kind = s.busError kind := by
  rw [Block.portAccess]
  by_cases h' : size ≠ 4 ∨ off % 4 ≠ 0
  · rw [if_pos h']
  · rw [if_neg h', (show placeAt z off = none by tauto)]

end Sys2Proof.Machine
end

