-- ==== Sys2Proof/Laws/Step.lean ====
section
/-! SUPPORT. What one step can do, said once: which turn it takes and what that turn answers. -/

namespace Sys2Proof.Machine

variable {z : Params}

/-- With no turn listed the engine moves. -/
theorem step_empty {s : Block z} (h : s.inbox = []) : step ⟨z, s⟩ = engineTurn ⟨z, s⟩ := by
  simp only [step, h]

/-- The first listed turn is taken and leaves the list. -/
theorem step_turn {s : Block z} {t : Turn} {rest : List Turn} (h : s.inbox = t :: rest) :
    step ⟨z, s⟩ = takeTurn t ⟨z, { s with inbox := rest }⟩ := by
  simp only [step, h]

/-- The engine's turn on an idle block. -/
theorem engineTurn_idle {s : Block z} (h : s.stBusy = false) : engineTurn ⟨z, s⟩ = .next ⟨z, s⟩ := by
  simp [engineTurn, h]

/-- The engine's turn on a busy block. -/
theorem engineTurn_busy {s : Block z} (h : s.stBusy = true) : engineTurn ⟨z, s⟩ = complete ⟨z, s⟩ := by
  simp [engineTurn, h]

/-- Everything completion can do: record the decoder's error, or execute the decoded command. -/
theorem complete_next {s : Block z} {t : State} (h : complete ⟨z, s⟩ = .next t) :
    (∃ e, decode z.nbuf s.cmdLatch = .error e ∧ t = ⟨z, (s.cmdError e).finish⟩) ∨
    (∃ (i : Instr) (u : Block z), decode z.nbuf s.cmdLatch = .ok i ∧ exec i ⟨z, s⟩ = .next ⟨z, u⟩ ∧
      t = ⟨z, u.finish⟩) := by
  rw [complete] at h
  cases hd : decode z.nbuf s.cmdLatch with
  | error e =>
    simp only [hd] at h
    exact .inl ⟨e, rfl, onBlock_next h⟩
  | ok i =>
    obtain ⟨u, hu⟩ := exec_answers i s
    simp only [hd, hu] at h
    exact .inr ⟨i, u, rfl, hu, onBlock_next h⟩

/-- Everything one step can do: the engine completes, an idle engine waits, the host accesses the block,
or the platform resets it. `u` is the block with the turn taken off the list. -/
theorem step_next {s : Block z} {t : State} (h : step ⟨z, s⟩ = .next t) :
    ∃ u : Block z, u = { s with inbox := s.inbox.tail } ∧
      ((s.stBusy = true ∧ complete ⟨z, u⟩ = .next t) ∨ (s.stBusy = false ∧ t = ⟨z, u⟩) ∨
       (∃ addr size kind, t = ⟨z, u.hostAccess addr size kind⟩) ∨ t = ⟨z, u.hardReset⟩) := by
  refine ⟨_, rfl, ?_⟩
  have eng : ∀ v : Block z, engineTurn ⟨z, v⟩ = .next t →
      (v.stBusy = true ∧ complete ⟨z, v⟩ = .next t) ∨ (v.stBusy = false ∧ t = ⟨z, v⟩) := by
    intro v hv
    cases hb : v.stBusy
    · rw [engineTurn_idle hb] at hv; exact .inr ⟨rfl, (Host.Outcome.next.inj hv).symm⟩
    · rw [engineTurn_busy hb] at hv; exact .inl ⟨rfl, hv⟩
  cases hi : s.inbox with
  | nil =>
    rw [step_empty hi] at h
    have : { s with inbox := [] } = s := by rw [← hi]
    simp only [List.tail_nil, this]
    rcases eng s h with h | h
    · exact .inl h
    · exact .inr (.inl h)
  | cons u rest =>
    rw [step_turn hi] at h
    cases u with
    | access addr size kind =>
      rw [takeTurn] at h
      exact .inr (.inr (.inl ⟨addr, size, kind, onBlock_next h⟩))
    | engine =>
      rcases eng _ h with h | h
      · exact .inl h
      · exact .inr (.inl h)
    | hardReset =>
      rw [takeTurn] at h
      exact .inr (.inr (.inr (onBlock_next h)))

end Sys2Proof.Machine
end

