-- ==== Sys2Proof/Tests/Slice0.lean ====
section
/-! SUPPORT. The model's own tests. Expected words and values are those of spec/30_encoding.md R113 and of
the tables of spec/95_test_vectors.md, named at each test; none was read off the model. After them, one
witness for every statement that has hypotheses. -/

namespace Sys2Proof.Tests

open Sys2Proof Sys2Proof.Machine

set_option maxRecDepth 100000

/-! ### WellFormed refuses an ill-formed term, one per check -/

theorem test_lgen_field : (Instr.lgen 8).wellFormed 8 = false := by decide
theorem test_lgens_field : (Instr.lgens 15 true).wellFormed 8 = false := by decide
theorem test_enc_field_d : (Instr.enc 8 0 0 0).wellFormed 8 = false := by decide
theorem test_enc_field_a : (Instr.enc 0 8 0 0).wellFormed 8 = false := by decide
theorem test_enc_field_b : (Instr.enc 0 0 8 0).wellFormed 8 = false := by decide
theorem test_enc_field_c : (Instr.enc 0 0 0 8).wellFormed 8 = false := by decide
theorem test_minit_field : (Instr.minit 8).wellFormed 8 = false := by decide
theorem test_match_field_a : (Instr.matchText 8 0).wellFormed 8 = false := by decide
theorem test_match_field_b : (Instr.matchText 0 8).wellFormed 8 = false := by decide
theorem test_largest_fields : (Instr.enc 7 7 7 7).wellFormed 8 = true := by decide

/-! ### Decoding: every constructor's word, then the kinds of illegal word (95_test_vectors.md section 3) -/

theorem test_decode_nop : decode 8 0x00000000 = .ok .nop := by decide
theorem test_decode_lload : decode 8 0x10000000 = .ok .lload := by decide
theorem test_decode_lstep : decode 8 0x11000000 = .ok .lstep := by decide
theorem test_decode_lgen : decode 8 0x12700000 = .ok (.lgen 7) := by decide
theorem test_decode_lgens : decode 8 0x13000001 = .ok (.lgens 0 true) := by decide
theorem test_decode_enc : decode 8 0x20301200 = .ok (.enc 3 0 1 2) := by decide
theorem test_decode_minit : decode 8 0x30070000 = .ok (.minit 7) := by decide
theorem test_decode_mstep : decode 8 0x31000001 = .ok (.mstep true) := by decide
theorem test_decode_match : decode 8 0x32013000 = .ok (.matchText 1 3) := by decide

theorem test_decode_illegal_opcode :
    [0x01000000, 0x14000000, 0x21000000, 0x33000000, 0xFF000000, 0xFFFFFFFF].map (decode 8) =
      List.replicate 6 (.error .illegalOpcode) := by decide

theorem test_decode_illegal_field :
    [0x00000001, 0x00000100, 0x10000001, 0x11100000, 0x12800000, 0x12010000, 0x13000003, 0x20765480,
      0x20865400, 0x20000800, 0x30080000, 0x30071000, 0x310000FF, 0x31100000, 0x32013001, 0x32F00000,
      0x32088000].map (decode 8) = List.replicate 17 (.error .illegalField) := by decide

/-- Rows of the opcode table as the host numbers their bits. -/
theorem test_table_words :
    decodeTableWord 32 0x20765400 = some (.enc 7 6 5 4) ∧ decodeTableWord 32 0x32013001 = none := by
  decide

/-! ### One command each, on a small state -/

/-- The reference configuration (00_scope.md R2), and a block of it. -/
abbrev ref : Params := Params.reference
abbrev Ref := Block ref

theorem ref_ok : ref.ok := by
  refine ⟨by decide, by decide, by decide, by decide, by decide, ?_, by decide⟩
  intro e he; cases he

/-- A reset block whose buffers hold the numbers `bufs` and whose other arrays are 0. -/
def block (bufs : Nat → Nat) : Ref :=
  { Block.powerOn ref with
    sb := vecOf _ fun b => vecOf _ fun i => (bufs b).testBit i
    mask0 := 0, mask1 := 0, row := vecOf _ fun _ => 0, matchLvls := vecOf _ fun _ => 0 }

/-- The machine after the word is issued and the engine has moved. -/
def after {z : Params} (w : Nat) (s : Block z) : State :=
  match step (State.withFetchWord ⟨z, s⟩ 32 w) with
  | .next t => t
  | .fault _ => ⟨z, s⟩
  | .refused _ => ⟨z, s⟩

/-- The low 32 bits of buffer `b`. -/
def bufWord {z : Params} (s : Block z) (b : Nat) : Word := packWord (s.sbBit b) 0

/-- The degree-4 configuration of 95_test_vectors.md 4.1, with GLEN = 8. -/
def deg4 : Ref := { block (fun _ => 0) with deg := 4, poly := 9, seed := 1, glen := 8 }

/-- The pattern 1,0,1,1 in SB[0] and the text 1,1,0,1,1,0,1,1 in SB[1], M = 4, N = 8, K = 1. -/
def pat4 : Ref := { block (fun b => if b = 0 then 0xD else 0xDB) with m := 4, n := 8, k := 1 }

/-- H14, H17: NOP only sets DONE. -/
theorem test_nop : (after 0x00000000 deg4).block.statusWord = 0x2 := by decide

/-- 4.2, first row. -/
theorem test_lload :
    (after 0x10000000 deg4).block.statusWord = 0x22 ∧ (after 0x10000000 deg4).block.lfsr = 1 ∧
    (after 0x10000000 deg4).block.adeg = 4 ∧ (after 0x10000000 deg4).block.apoly = 9 := by decide

/-- 4.5, E3: degree 12 has no preset, though it is below DEG_MAX. -/
theorem test_lload_preset :
    (after 0x10000000 { deg4 with cfgPreset := true, deg := 12, seed := 0 }).block.statusWord = 0x306 := by
  decide

/-- 4.2, step from 15 to 14 with OUT = 1; DEG = 11 is not the latched degree. -/
theorem test_lstep :
    (after 0x11000000 { deg4 with deg := 11, stLv := true, adeg := 4, apoly := 9, lfsr := 15 }).block.lfsr = 14 ∧
    (after 0x11000000 { deg4 with deg := 11, stLv := true, adeg := 4, apoly := 9, lfsr := 15 }).block.statusWord
      = 0x32 := by decide

/-- 4.3, G1. -/
theorem test_lgen :
    bufWord (after 0x12100000 deg4).block 1 = 0x78 ∧ (after 0x12100000 deg4).block.lfsr = 11 ∧
    (after 0x12100000 deg4).block.statusWord = 0x22 := by decide

/-- 4.3, G4: the zero polynomial shifts the seed out. -/
theorem test_lgen_zero_poly :
    bufWord (after 0x12100000 { deg4 with poly := 0, seed := 0xB }).block 1 = 0x0D ∧
    (after 0x12100000 { deg4 with poly := 0, seed := 0xB }).block.lfsr = 0 := by decide

/-- 4.4, S1. -/
theorem test_lgens :
    bufWord (after 0x13100001 deg4).block 1 = 0xAF ∧ (after 0x13100001 deg4).block.lfsr = 9 ∧
    (after 0x13100001 deg4).block.statusWord = 0x32 := by decide

/-- 4.4, S5. -/
theorem test_lgens_exhausted :
    (after 0x13100000 { deg4 with deg := 1, poly := 1 }).block.statusWord = 0xA36 ∧
    (after 0x13100000 { deg4 with deg := 1, poly := 1 }).block.lfsr = 1 := by decide

/-- 5.1, clock 0,1,0,1 and plaintext 1,1,0,0. -/
theorem test_enc :
    bufWord (after 0x20301200
      { block (fun b => if b = 0 then 0xA else if b = 1 then 0xB2 else if b = 2 then 0x3 else 0) with
        m := 4 }).block 3 = 0xB := by decide

/-- 5.2, X2: all four operands one buffer. -/
theorem test_enc_in_place :
    bufWord (after 0x20000000 { block (fun _ => 0xB2) with m := 4 }).block 0 = 0xBA := by decide

/-- 6.1, I2: Shift-OR masks and rows. -/
theorem test_minit :
    let t := (after 0x30000000 { pat4 with cfgShiftOr := true }).block
    t.mask0 = 0xD ∧ t.mask1 = 0x2 ∧ t.rowK 0 = 0xF ∧ t.rowK 1 = 0xE ∧ t.statusWord = 0x42 := by decide

/-- 6.3, M7. -/
theorem test_minit_bad_k :
    (after 0x30000000 { pat4 with m := 512, k := 32 }).block.statusWord = 0x706 := by decide

/-- The matcher after MINIT of the pattern 1,0,1,1 with M = 4 and K = 1 (95_test_vectors.md 6.1, I1), its
rows 0 and 1 then set to `r0` and `r1`. -/
def started (ains : Bool) (r0 r1 : Row ref) (p : Half) : Ref :=
  { pat4 with
    am := 4, ak := 1, ains := ains, mask0 := 0x2, mask1 := 0xD
    row := vecOf _ fun k => if k = 0 then r0 else if k = 1 then r1 else 0
    pos := p, lastLvl := 4, minLvl := 4, stMv := true }

/-- 6.2, CFG = 0, p = 5. -/
theorem test_mstep :
    let t := (after 0x31000000 (started false 0x9 0xD 5)).block
    t.rowK 0 = 0x2 ∧ t.rowK 1 = 0xB ∧ t.level 5 = 1 ∧ t.pos = 6 := by decide

/-- 6.2, CFG = 2, p = 0: the insertion term. -/
theorem test_mstep_insertion :
    let t := (after 0x31000001 (started true 0x0 0x1 0)).block
    t.rowK 0 = 0x1 ∧ t.rowK 1 = 0x3 ∧ t.level 0 = 4 ∧ t.statusWord = 0x42 := by decide

/-- 6.3, M3: one buffer is both pattern and text. -/
theorem test_match :
    let t := (after 0x32000000 { block (fun _ => 0x2) with m := 2, n := 4, k := 0 }).block
    [0, 1, 2, 3].map t.level = [2, 0, 2, 2] ∧ t.minLvl = 0 ∧ t.lastLvl = 2 ∧ t.stAny = true := by decide

/-- 6.3, M11: BAD_K before the check on N. -/
theorem test_match_bad_k :
    (after 0x32001000 { pat4 with m := 4, k := 4, n := 3 }).block.statusWord = 0x706 := by decide

/-! ### The host port (95_test_vectors.md section 2) -/

/-- H3, H4, H5: reserved bits are ignored. -/
theorem test_reserved_bits :
    (Block.portAccess (Block.portAccess deg4 0x014 4 (.write 0xFFFFFFFF)) 0x014 4 .read).resp =
      .readData 0x3F ∧
    (Block.portAccess (Block.portAccess deg4 0x020 4 (.write 0x12345678)) 0x020 4 .read).resp =
      .readData 0x5678 := by decide

/-- H7 to H10: reserved offsets, the last row word, another width, misalignment. -/
theorem test_refusals :
    [0x054, 0x3FC, 0x1080, 0x2800, 0x402].map (fun off => (deg4.portAccess off 4 .read).resp) =
      List.replicate 5 (.readError 0) ∧
    (deg4.portAccess 0x008 1 .read).resp = .readError 0 ∧
    (deg4.portAccess 0x27FC 4 .read).resp = .readData 0 := by decide

/-- R35 and R44 to R52: CMD reads 0; ASO is bit 0 of AFLAGS and AINS bit 1; no two registers are swapped. -/
theorem test_unit_registers :
    let s : Ref := { deg4 with
      lfsr := 0x80000001, adeg := 32, apoly := 0x0A0B0C0D, am := 3, ak := 2, aso := false, ains := true
      pos := 5, lastLvl := 6, minLvl := 7, cmdLatch := 0x10000000 }
    [0x00C, 0x030, 0x034, 0x038, 0x03C, 0x040, 0x044, 0x048, 0x04C, 0x050].map
      (fun off => (s.portAccess off 4 .read).resp) =
    [0, 0x80000001, 32, 0x0A0B0C0D, 3, 2, 2, 5, 6, 7].map .readData := by decide

/-- H15, H16: what answers while a command is in flight. -/
theorem test_busy_port :
    [0x400, 0x014, 0x000, 0x004].map (fun off => ((deg4.issue 0).portAccess off 4 .read).resp) =
      [.readError 0, .readError 0, .readData 0x42524D01, .readData 0] ∧
    ((deg4.issue 0).portAccess 0x00C 4 (.write 0)).resp = .writeError := by decide

/-! ### Other parameters (00_scope.md R2, 20_memory.md R83 to R87)

95_test_vectors.md has no other configuration: the expected values are worked out by hand from the rules. -/

/-- A small configuration whose formulas fit: one buffer of 64 bits, masks of 32, four rows, degree 16. -/
def small : Params :=
  { nbuf := 1, bufBits := 64, mMax := 32, kMax := 3, degMax := 16, baseSlot := 5, addressMap := [] }

/-- A configuration whose buffers do not fit the formulas, with a few words placed by ADDRESS_MAP. -/
def wide : Params :=
  { nbuf := 8, bufBits := 2048, mMax := 64, kMax := 1, degMax := 20, baseSlot := 0
    addressMap := [(0x400, .sb 0 0), (0x404, .sb 7 63), (0x1000, .levels 1023), (0x1004, .mask true 1),
      (0x2000, .row 1 0)] }

theorem small_ok : small.ok := by
  refine ⟨by decide, by decide, by decide, by decide, by decide, ?_, by decide⟩
  intro e he; cases he

theorem wide_ok : wide.ok ∧ ¬ wide.formulasFit := by
  refine ⟨⟨by decide, by decide, by decide, by decide, by decide, ?_, by decide⟩, by decide⟩
  simp [wide, Params.hasWord, Config.WINDOW]

/-- R83, R84, R85, R87: where the formulas put the words of the small configuration, and what is reserved. -/
theorem test_small_map :
    [0x404, 0x408, 0x87C, 0x880, 0x1004, 0x1008, 0x200C, 0x2010].map (placeAt small) =
      [some (.array (.sb 0 1)), none, some (.array (.levels 31)), none, some (.array (.mask true 0)), none,
        some (.array (.row 3 0)), none] := by decide

/-- R87: above the registers the map of the wide configuration is its ADDRESS_MAP and nothing else. -/
theorem test_wide_map :
    [0x050, 0x054, 0x404, 0x408, 0x1000, 0x2000].map (placeAt wide) =
      [some (.reg .minLvl), none, some (.array (.sb 7 63)), none, some (.array (.levels 1023)),
        some (.array (.row 1 0))] := by decide

/-- R80, R2: BASE is 5 * 16 KiB in the small configuration. -/
theorem test_small_base :
    ((Block.powerOn small).hostAccess 0x14000 4 .read).resp = .readData 0x42524D01 ∧
    ((Block.powerOn small).hostAccess 0x18000 4 .read).resp = .notDecoded ∧
    ((Block.powerOn small).hostAccess 0x13FFC 4 .read).resp = .notDecoded := by decide

/-- R114, R160, R43, R40, R220 with NBUF = 1, DEG_MAX = 16, K_MAX = 3 and BUF_BITS = 64. -/
theorem test_small_limits :
    let s : Block small := Block.powerOn small
    (after 0x12100000 s).block.errcode = 0x02 ∧
    (after 0x10000000 { s with deg := 17 }).block.errcode = 0x03 ∧
    (after 0x30000000 { s with m := 5, k := 4 }).block.errcode = 0x07 ∧
    (after 0x12000000 { s with deg := 16, glen := 65 }).block.errcode = 0x06 ∧
    (after 0x31000000 { s with stMv := true, pos := 64 }).block.errcode = 0x09 := by decide

/-- R83: the second word of the small configuration's buffer is bits 32 to 63. -/
theorem test_small_buffer :
    let s : Block small := { Block.powerOn small with sb := vecOf _ fun _ => vecOf _ fun _ => false }
    bufWord (s.portAccess 0x404 4 (.write 0xDEADBEEF)) 0 = 0 ∧
    ((s.portAccess 0x404 4 (.write 0xDEADBEEF)).portAccess 0x404 4 .read).resp = .readData 0xDEADBEEF := by
  decide

/-! ### Witnesses: states and operands that meet the hypotheses of each statement

A statement with clauses has one witness for each, at a boundary of its range. -/

theorem witness_DecodeInvertsEncode :
    (Instr.enc 7 7 7 7).wellFormed 8 = true ∧ (Instr.matchText 0 7).wellFormed 8 = true := by decide

theorem witness_EncodeInvertsDecode :
    decode 8 0x20777700 = .ok (.enc 7 7 7 7) ∧ decode 8 0x31000001 = .ok (.mstep true) := by decide

theorem witness_IllegalOpcode :
    (deg4.issue 0xFF000000).stBusy = true ∧
    ((deg4.issue 0xFF000000).cmdLatch.extractLsb' 24 8).toNat ∉
      [0x00, 0x10, 0x11, 0x12, 0x13, 0x20, 0x30, 0x31, 0x32] := by decide

/-- A field that must be zero is nonzero. -/
theorem witness_IllegalField_zero :
    (deg4.issue 0x00000001).stBusy = true ∧
    ((deg4.issue 0x00000001).cmdLatch.extractLsb' 24 8, Opcode.nop) ∈ opcodeMap ∧
    (deg4.issue 0x00000001).cmdLatch &&& rowMask .nop ≠ rowMatch .nop := by decide

/-- A used buffer field is NBUF. -/
theorem witness_IllegalField_buffer :
    (deg4.issue 0x20000800).stBusy = true ∧
    ((deg4.issue 0x20000800).cmdLatch.extractLsb' 24 8, Opcode.enc) ∈ opcodeMap ∧
    ∃ f ∈ rowUsed .enc,
      ref.nbuf ≤ ((deg4.issue 0x20000800).cmdLatch.extractLsb' (bufFieldLsb f) 4).toNat := by decide

/-- A loaded LFSR about to step. -/
def loaded : Ref := { deg4 with stLv := true, adeg := 4, apoly := 9, lfsr := 8 }

theorem loaded_lfsrOk : loaded.lfsrOk := by unfold Block.lfsrOk; decide

theorem witness_StepKeepsLfsrInRange :
    State.has ⟨ref, loaded.issue 0x11000000⟩ Block.lfsrOk ∧ (loaded.issue 0x11000000).stLv = true ∧
    ∃ t, step ⟨ref, loaded.issue 0x11000000⟩ = .next t :=
  ⟨⟨ref_ok, loaded_lfsrOk⟩, by decide, ⟨_, rfl⟩⟩

/-- A started matcher at its last position, about to consume a symbol. -/
def lastStep : Ref := (started true 0x0 0x1 1023).issue 0x31000001

theorem lastStep_matcherOk : lastStep.matcherOk := by unfold Block.matcherOk; decide

theorem witness_StepKeepsMatcherInRange :
    State.has ⟨ref, lastStep⟩ Block.matcherOk ∧ lastStep.stMv = true ∧
    ∃ t, step ⟨ref, lastStep⟩ = .next t :=
  ⟨⟨ref_ok, lastStep_matcherOk⟩, by decide, ⟨_, rfl⟩⟩

/-- A number below 2^a has no bit at or above a. -/
theorem bit_above {w : Nat} (v : BitVec w) (a j : Nat) (h : v.toNat < 2 ^ a) (hj : a ≤ j) :
    v.getLsbD j = false :=
  Nat.testBit_lt_two_pow (Nat.lt_of_lt_of_le h (Nat.pow_le_pow_right (by omega) hj))

theorem lastStep_windowOk : lastStep.windowOk := by
  intro _ j hj
  refine ⟨bit_above _ 4 j (by decide) hj, bit_above _ 4 j (by decide) hj, fun k hk => ?_⟩
  have h : ∀ k, k ≤ 1 → (lastStep.rowK k).toNat < 2 ^ 4 := by decide
  exact bit_above _ 4 j (h k hk) hj

theorem witness_StepKeepsMatcherWindow :
    State.has ⟨ref, lastStep⟩ Block.matcherOk ∧ State.has ⟨ref, lastStep⟩ Block.windowOk ∧
    ∃ t, step ⟨ref, lastStep⟩ = .next t :=
  ⟨⟨ref_ok, lastStep_matcherOk⟩, ⟨ref_ok, lastStep_windowOk⟩, ⟨_, rfl⟩⟩

theorem lastStep_nestedOk : lastStep.nestedOk := by
  intro _ k j hk hj
  have h : ∀ k, k < 1 → ∀ j, j < 4 → lastStep.lit k j = true → lastStep.lit (k + 1) j = true := by decide
  exact h k hk j hj

theorem witness_StepKeepsRowsNested :
    State.has ⟨ref, lastStep⟩ Block.matcherOk ∧ State.has ⟨ref, lastStep⟩ Block.nestedOk ∧
    ∃ t, step ⟨ref, lastStep⟩ = .next t :=
  ⟨⟨ref_ok, lastStep_matcherOk⟩, ⟨ref_ok, lastStep_nestedOk⟩, ⟨_, rfl⟩⟩

theorem witness_StepKeepsOutcomeConsistent :
    State.has ⟨ref, lastStep⟩ Block.outcomeOk ∧ ∃ t, step ⟨ref, lastStep⟩ = .next t := by
  refine ⟨⟨ref_ok, ?_⟩, ⟨_, rfl⟩⟩
  unfold Block.outcomeOk; decide

/-- A matcher that has recorded the level 1 at position 0 and is about to consume a symbol. -/
def recorded : Ref :=
  { (started true 0x0 0x1 1).issue 0x31000001 with
    matchLvls := vecOf _ fun _ => 1, lastLvl := 1, minLvl := 1, stAny := true }

theorem witness_StepKeepsResultsConsistent :
    State.has ⟨ref, recorded⟩ Block.matcherOk ∧ State.has ⟨ref, recorded⟩ Block.resultsOk ∧
    ∃ t, step ⟨ref, recorded⟩ = .next t := by
  refine ⟨⟨ref_ok, by unfold Block.matcherOk; decide⟩,
    ⟨ref_ok, fun _ => ⟨?_, .inr ⟨0, by decide⟩, ?_, ?_⟩⟩, ⟨_, rfl⟩⟩
  · intro p hp
    have h : ∀ p, p < 1 →
    ((recorded.level p).toNat ≤ recorded.ak.toNat ∨ recorded.level p = recorded.am) ∧
        recorded.minLvl.toNat ≤ (recorded.level p).toNat := by decide
    exact h p hp
  · decide
  · decide

/-- `deg4` with the engine's turn listed and a NOP in flight. -/
def nopListed : Ref := { deg4.issue 0 with inbox := [.engine] }

theorem witness_StepRunsTheDecodedCommand :
    ((deg4.issue 0).stBusy = true ∧ (deg4.issue 0).inbox = [] ∧
      decode ref.nbuf (deg4.issue 0).cmdLatch = .ok .nop ∧
      exec .nop ⟨ref, deg4.issue 0⟩ = .next ⟨ref, deg4.issue 0⟩) ∧
    (nopListed.stBusy = true ∧ nopListed.inbox = .engine :: [] ∧
      decode ref.nbuf nopListed.cmdLatch = .ok .nop ∧
      ∃ t, exec .nop ⟨ref, { nopListed with inbox := [] }⟩ = .next ⟨ref, t⟩) ∧
    (decode ref.nbuf (tableWord 32 0x11000000) = .ok .lstep ∧ ∃ t, exec .lstep ⟨ref, { loaded with
      cmdLatch := tableWord 32 0x11000000, stBusy := true, stDone := false, stErr := false
      errcode := 0 }⟩ = .next ⟨ref, t⟩) :=
  ⟨⟨by decide, by decide, by decide, rfl⟩, ⟨by decide, by decide, by decide, ⟨_, rfl⟩⟩,
    ⟨by decide, ⟨_, rfl⟩⟩⟩

theorem witness_StepTakesOneTurn :
    ({ deg4 with inbox := [.access 0 4 .read] } : Ref).inbox = .access 0 4 .read :: [] ∧
    ({ deg4 with inbox := [.hardReset] } : Ref).inbox = .hardReset :: [] ∧
    ({ deg4 with inbox := [.engine] } : Ref).inbox = .engine :: [] ∧ deg4.inbox = [] ∧
    deg4.stBusy = false := by decide

theorem witness_WriteToCmdIssues : deg4.stBusy = false ∧ (deg4.issue 0).stBusy = true := by decide

theorem witness_InterruptFollowsEnableAndDone :
    (deg4.issue 0).stBusy = true ∧ deg4.stBusy = false ∧
    (2 : Word).getLsbD 1 = true ∧ (1 : Word).getLsbD 1 = false ∧ (0 : Word).getLsbD 1 = false := by
  decide

theorem witness_CommandsLeaveConfigurationAlone : ∃ t, exec .lload ⟨ref, deg4⟩ = .next ⟨ref, t⟩ := ⟨_, rfl⟩

theorem witness_PreCheckErrorChangesOnlyStatus :
    ∃ t, exec .lstep ⟨ref, deg4⟩ = .next ⟨ref, t⟩ ∧ t.errcode ≠ deg4.errcode ∧ t.errcode ≠ 0x0A :=
  ⟨_, rfl, by decide, by decide⟩

theorem witness_BufferFieldOutOfRangeFails :
    (Instr.lgen 8).wellFormed 8 = false ∧ (Instr.matchText 0 15).wellFormed 8 = false := by decide

theorem witness_UninitialisedUnitsReportNotInit :
    deg4.stLv = false ∧ deg4.stMv = false ∧
    ((started true 0x0 0x1 1024).stMv = true ∧
      ref.bufBits ≤ (started true 0x0 0x1 1024).pos.toNat) := by decide

/-- The largest legal load: degree 32, and the smallest: degree 1. -/
def deg32 : Ref := { deg4 with deg := 32, poly := 0xFFFFFFFF, seed := 0xFFFFFFFF, glen := 1024 }
def deg1 : Ref := { deg4 with deg := 1, poly := 0, seed := 1, glen := 1 }

/-- A preset load. -/
def preset11 : Ref := { deg4 with cfgPreset := true, deg := 11, seed := 2047 }

theorem witness_LloadLatchesTheConfiguration :
    ref.ok ∧ deg32.loadLegal ∧ deg1.loadLegal ∧ preset11.loadLegal := by
  refine ⟨ref_ok, ?_⟩
  unfold Block.loadLegal Block.degreeLegal Block.polyLegal Block.seedLegal; decide

theorem witness_LoadErrorsComeInOrder :
    (¬ ({ deg4 with deg := 33 } : Ref).degreeLegal ∧
      ¬ ({ deg4 with cfgPreset := true, deg := 12 } : Ref).degreeLegal) ∧
    (({ deg4 with poly := 16 } : Ref).degreeLegal ∧ ¬ ({ deg4 with poly := 16 } : Ref).polyLegal) ∧
    (({ deg4 with seed := 16 } : Ref).degreeLegal ∧ ({ deg4 with seed := 16 } : Ref).polyLegal ∧
      ¬ ({ deg4 with seed := 16 } : Ref).seedLegal) ∧
    (({ deg4 with glen := 1025 } : Ref).loadLegal ∧ (Instr.lgen 7 ≠ .lload) ∧ bufLegal ref 7 ∧
      ¬ ({ deg4 with glen := 1025 } : Ref).glenLegal) := by
  unfold Block.loadLegal Block.degreeLegal Block.polyLegal Block.seedLegal Block.glenLegal bufLegal; decide

theorem witness_LstepShiftsTheRegister : loaded.stLv = true ∧ loaded.lfsrOk := by
  unfold Block.lfsrOk; decide

theorem witness_LgenRecordsTheEmittedBits :
    bufLegal ref 7 ∧ deg32.loadLegal ∧ deg32.glenLegal ∧ deg1.loadLegal ∧ deg1.glenLegal := by
  unfold Block.loadLegal Block.degreeLegal Block.polyLegal Block.seedLegal Block.glenLegal bufLegal; decide

/-- The symbol 0 is the last bit within the bound: degree 1, polynomial 0, seed 1 emits 1, 0. -/
theorem witness_LgensStartsAtTheSymbol :
    bufLegal ref 7 ∧ deg1.loadLegal ∧ deg1.glenLegal ∧ 1 < 2 ^ deg1.deg.toNat ∧ deg1.genBit 1 = false ∧
    ∀ u, u < 1 → deg1.genBit u ≠ false := by
  unfold Block.loadLegal Block.degreeLegal Block.polyLegal Block.seedLegal Block.glenLegal bufLegal; decide

/-- 95_test_vectors.md 4.4, S5. -/
theorem witness_LgensWithoutTheSymbolIsExhausted :
    bufLegal ref 1 ∧ ({ deg1 with poly := 1 } : Ref).loadLegal ∧
    ({ deg1 with poly := 1 } : Ref).glenLegal ∧
    ∀ u, u < 2 ^ ({ deg1 with poly := 1 } : Ref).deg.toNat →
      ({ deg1 with poly := 1 } : Ref).genBit u ≠ false := by
  unfold Block.loadLegal Block.degreeLegal Block.polyLegal Block.seedLegal Block.glenLegal bufLegal; decide

/-- The first clause at degree 1; the second at 95_test_vectors.md 4.4, S5. -/
theorem witness_SkipBoundIsExact :
    (1 ≤ 1 ∧ 1 ≤ 32 ∧ (1 : BitVec 32).toNat < 2 ^ 1 ∧ ∀ t, t < 2 ^ 1 →
      lfsrBit (len := 32) 1 1 1 t ≠ false) ∧
    (ref.ok ∧ bufLegal ref 1 ∧ ({ deg1 with poly := 1 } : Ref).loadLegal ∧
      ({ deg1 with poly := 1 } : Ref).glenLegal ∧ ({ deg1 with poly := 1 } : Ref).errcode = 0) ∧
    ∃ t, exec (.lgens 1 false) ⟨ref, { deg1 with poly := 1 }⟩ = .next ⟨ref, t⟩ ∧ t.errcode = 0x0A :=
  ⟨by decide, ⟨ref_ok, witness_LgensWithoutTheSymbolIsExhausted.1,
    witness_LgensWithoutTheSymbolIsExhausted.2.1, witness_LgensWithoutTheSymbolIsExhausted.2.2.1,
    by decide⟩, ⟨_, rfl, by decide⟩⟩

theorem witness_ZeroPolynomialShiftsTheSeedOut :
    ref.ok ∧ bufLegal ref 0 ∧ ({ deg4 with poly := 0 } : Ref).loadLegal ∧
    ({ deg4 with poly := 0 } : Ref).glenLegal ∧
    ({ deg4 with poly := 0 } : Ref).loadPoly = 0 ∧
    ({ deg4 with poly := 0 } : Ref).deg.toNat ≤ ({ deg4 with poly := 0 } : Ref).glen.toNat := by
  refine ⟨ref_ok, ?_⟩
  unfold Block.loadLegal Block.degreeLegal Block.polyLegal Block.seedLegal Block.glenLegal bufLegal; decide

theorem witness_ZeroStateStaysZero :
    (({ loaded with lfsr := 0 } : Ref).stLv = true ∧ ({ loaded with lfsr := 0 } : Ref).lfsr = 0) ∧
    bufLegal ref 0 ∧ ({ deg4 with seed := 0 } : Ref).loadLegal ∧
    ({ deg4 with seed := 0 } : Ref).glenLegal ∧
    ({ deg4 with seed := 0 } : Ref).seed = 0 := by
  unfold Block.loadLegal Block.degreeLegal Block.polyLegal Block.seedLegal Block.glenLegal bufLegal; decide

theorem witness_WindowedShiftEmptiesTheWindow :
    (15 : BitVec 8).toNat < 2 ^ 4 ∧ (255 : BitVec 8).toNat < 2 ^ 8 ∧ (0 : BitVec 8).toNat < 2 ^ 0 := by
  decide

/-- The smallest and the largest legal lengths. -/
def sizes1 : Ref := { pat4 with m := 1, n := 2, k := 0 }
def sizes512 : Ref := { pat4 with m := 512, n := 1024, k := 31 }

theorem witness_EncCombinesTheOldBuffers :
    ref.ok ∧ bufLegal ref 7 ∧ bufLegal ref 0 ∧ sizes1.mLegal ∧ sizes512.mLegal := by
  refine ⟨ref_ok, ?_⟩
  unfold Block.mLegal bufLegal; decide

theorem witness_EncTwiceRestoresThePlaintext :
    ref.ok ∧ bufLegal ref 3 ∧ bufLegal ref 0 ∧ bufLegal ref 1 ∧ bufLegal ref 2 ∧ sizes512.mLegal ∧
    (3 : BufIx) ≠ 0 ∧
    (3 : BufIx) ≠ 1 := by
  refine ⟨ref_ok, ?_⟩
  unfold Block.mLegal bufLegal; decide

theorem witness_LengthErrorsComeInOrder :
    bufLegal ref 7 ∧ ¬ ({ pat4 with m := 0 } : Ref).mLegal ∧ ¬ ({ pat4 with m := 513 } : Ref).mLegal ∧
    (({ pat4 with k := 4 } : Ref).mLegal ∧ ¬ ({ pat4 with k := 4 } : Ref).kLegal) ∧
    (({ pat4 with n := 7 } : Ref).mLegal ∧ ({ pat4 with n := 7 } : Ref).kLegal ∧
      ¬ ({ pat4 with n := 7 } : Ref).nLegal) := by
  unfold Block.mLegal Block.kLegal Block.nLegal bufLegal; decide

/-- The hypotheses of the statements about MINIT and MATCH. -/
theorem witness_matching :
    ref.ok ∧ bufLegal ref 0 ∧ bufLegal ref 7 ∧ sizes1.mLegal ∧ sizes1.kLegal ∧ sizes1.nLegal ∧
    sizes512.mLegal ∧
    sizes512.kLegal ∧ sizes512.nLegal := by
  refine ⟨ref_ok, ?_⟩
  unfold Block.mLegal Block.kLegal Block.nLegal bufLegal; decide

theorem witness_MinitBuildsMasksAndRows :
    bufLegal ref 7 ∧ sizes1.mLegal ∧ sizes1.kLegal ∧ sizes512.mLegal ∧ sizes512.kLegal :=
  ⟨witness_matching.2.2.1, witness_matching.2.2.2.1, witness_matching.2.2.2.2.1,
    witness_matching.2.2.2.2.2.2.1, witness_matching.2.2.2.2.2.2.2.1⟩

theorem witness_MstepUpdatesShiftAndRows :
    lastStep.stMv = true ∧ lastStep.matcherOk ∧ lastStep.pos.toNat < ref.bufBits ∧ lastStep.aso = false :=
  ⟨by decide, lastStep_matcherOk, by decide, by decide⟩

/-- The Shift-OR image of `lastStep`. -/
def lastStepOr : Ref :=
  { lastStep with
    aso := true, cfgShiftOr := true, mask0 := 0xD, mask1 := 0x2
    row := vecOf _ fun k => if k = 0 then 0xF else if k = 1 then 0xE else 0 }

theorem witness_MstepUpdatesShiftOrRows :
    lastStepOr.stMv = true ∧ lastStepOr.matcherOk ∧ lastStepOr.pos.toNat < ref.bufBits ∧
    lastStepOr.aso = true := by unfold Block.matcherOk; decide

theorem witness_MstepRecordsTheLevel :
    lastStep.stMv = true ∧ lastStep.matcherOk ∧ lastStep.pos.toNat < ref.bufBits :=
  ⟨by decide, lastStep_matcherOk, by decide⟩

theorem witness_LevelIsTheLeastSignallingRow :
    lastStep.stMv = true ∧ lastStep.matcherOk ∧ lastStep.nestedOk ∧ lastStep.pos.toNat < ref.bufBits :=
  ⟨by decide, lastStep_matcherOk, lastStep_nestedOk, by decide⟩

theorem witness_MatchIsMinitThenMsteps :
    ref.ok ∧ bufLegal ref 0 ∧ bufLegal ref 7 ∧ sizes512.mLegal ∧ sizes512.kLegal ∧ sizes512.nLegal :=
  ⟨ref_ok, witness_matching.2.1, witness_matching.2.2.1, witness_matching.2.2.2.2.2.2⟩

/-- The shortest and the longest text. -/
theorem witness_texts :
    ([] : List Bool).length ≤ ref.bufBits ∧
  (List.replicate 1024 true).length ≤ ref.bufBits := by
  simp [ref, Params.reference]

/-- The first clause's hypotheses are those of `witness_MinitBuildsMasksAndRows` and `witness_texts`. -/
theorem witness_ShiftOrIsTheDualOfShiftAnd :
    ref.ok ∧ lastStep.stMv = true ∧ lastStep.matcherOk ∧ lastStep.windowOk ∧
    lastStep.pos.toNat < ref.bufBits ∧
    shiftDual lastStep lastStepOr := by
  refine ⟨ref_ok, by decide, lastStep_matcherOk, lastStep_windowOk, by decide, by decide, ?_, ?_⟩
  · have h0 : notW lastStep.am.toNat lastStep.mask0 = 0xD := by decide
    have h1 : notW lastStep.am.toNat lastStep.mask1 = 0x2 := by decide
    rw [h0, h1]; rfl
  · intro k hk
    have h : ∀ k, k ≤ 1 → lastStepOr.rowK k = notW lastStep.am.toNat (lastStep.rowK k) := by decide
    exact h k hk

theorem witness_KZeroIsExactMatching :
    ref.ok ∧ bufLegal ref 7 ∧ sizes1.mLegal ∧ sizes1.k = 0 ∧
    (List.replicate 1024 true).length ≤ ref.bufBits :=
  ⟨ref_ok, witness_matching.2.2.1, witness_matching.2.2.2.1, by decide, witness_texts.2⟩

theorem witness_LargerKKeepsEveryMatch :
    ref.ok ∧ bufLegal ref 7 ∧ pat4.mLegal ∧ pat4.k.toNat ≤ (3 : Half).toNat ∧
    (3 : Half).toNat < pat4.m.toNat ∧ (3 : Half).toNat ≤ ref.kMax ∧
    (List.replicate 1024 true).length ≤ ref.bufBits :=
  ⟨ref_ok, witness_matching.2.2.1, by unfold Block.mLegal; decide, by decide, by decide, by decide,
    witness_texts.2⟩

theorem witness_LevelMeasuresTheDistance :
    ref.ok ∧ bufLegal ref 7 ∧ sizes512.mLegal ∧ sizes512.kLegal ∧
    (List.replicate 1024 true).length ≤ ref.bufBits :=
  ⟨ref_ok, witness_matching.2.2.1, witness_matching.2.2.2.2.2.2.1, witness_matching.2.2.2.2.2.2.2.1, witness_texts.2⟩

theorem witness_LevelsAreBounded :
    ref.ok ∧ bufLegal ref 7 ∧ sizes512.mLegal ∧ sizes512.kLegal ∧
    (List.replicate 1024 true).length ≤ ref.bufBits :=
  witness_LevelMeasuresTheDistance

theorem witness_AnyIsTheCandidateTest :
    ref.ok ∧ bufLegal ref 0 ∧ bufLegal ref 7 ∧ sizes512.mLegal ∧ sizes512.kLegal ∧ sizes512.nLegal :=
  witness_MatchIsMinitThenMsteps

theorem witness_StepsUseLatchedParametersOnly :
    (∃ t, exec .lstep ⟨ref, loaded⟩ = .next ⟨ref, t⟩) ∧
    ∃ t, exec (.mstep true) ⟨ref, lastStep⟩ = .next ⟨ref, t⟩ :=
  ⟨⟨_, rfl⟩, ⟨_, rfl⟩⟩

theorem witness_UnitsAreIndependent :
    (∃ t, exec (.lgen 0) ⟨ref, deg4⟩ = .next ⟨ref, t⟩) ∧
    (∃ t, exec (.enc 3 0 1 2) ⟨ref, pat4⟩ = .next ⟨ref, t⟩) ∧
    ∃ t, exec (.minit 0) ⟨ref, pat4⟩ = .next ⟨ref, t⟩ := ⟨⟨_, rfl⟩, ⟨_, rfl⟩, ⟨_, rfl⟩⟩

theorem witness_OnlyTheWindowIsDecoded :
    0x3FFF < 0x4000 ∧ (ref.base + 0x4000 < ref.base ∨ ref.base + 0x4000 ≤ ref.base + 0x4000) :=
  ⟨by decide, .inr (Nat.le_refl _)⟩

/-- The formulas of the reference configuration fit the window. -/
theorem ref_fits : ref.formulasFit := by decide

/-- Where the reference map puts an array word. -/
theorem ref_wordAt (off : Nat) (a : ArrayWord) :
    wordAt ref off a ↔ ref.hasWord a ∧ off = formulaOffset ref a := by rw [wordAt, if_pos ref_fits]

/-- The first reserved offset and the last: no array word stands there. -/
theorem ref_reserved : reservedAt ref 0x054 ∧ reservedAt ref 0x3FFC := by
  refine ⟨⟨by decide, fun a h => ?_⟩, ⟨by decide, fun a h => ?_⟩⟩ <;>
    exact absurd ((placeAt_array_iff ref_ok (by decide) a).mpr h) (by rw [show placeAt ref _ = none by decide]; simp)

/-- One offset for each way a first-clause access is refused, and the ends of the second's ranges. -/
theorem witness_RefusedAccessChangesNothing :
    ref.ok ∧ (0x3FFF < 0x4000 ∧ 0x3FFF % 4 ≠ 0) ∧ (reservedAt ref 0x054 ∧ reservedAt ref 0x3FFC) ∧
    ((deg4.issue 0).stBusy = true ∧ 0x00C ≠ 0x000 ∧ 0x00C ≠ 0x004 ∧ 0x00C ≠ 0x008) ∧
    (0x030 ≤ 0x050 ∧ 0x050 < 0x054) ∧
    (wordAt ref 0x800 (.levels 0) ∧ arrayReadOnly (.levels 0)) ∧
    (wordAt ref 0x27FC (.row 31 15) ∧ arrayReadOnly (.row 31 15)) := by
  refine ⟨ref_ok, by decide, ref_reserved, by decide, by decide, ⟨?_, trivial⟩, ⟨?_, trivial⟩⟩ <;>
    rw [ref_wordAt] <;> decide

theorem witness_StatusAndControlAlwaysAnswer : (0xFFFFFFFD : Word).getLsbD 1 = false := by decide

theorem witness_ConfigurationReadsBackDefinedBits : deg4.stBusy = false := by decide

/-- The first and the last word of the buffers, by the formula and by an ADDRESS_MAP. -/
theorem witness_BufferWordsReadBack :
    (ref.ok ∧ deg4.stBusy = false ∧ wordAt ref 0x400 (.sb 0 0) ∧ wordAt ref 0x7FC (.sb 7 31)) ∧
    (wide.ok ∧ (Block.powerOn wide).stBusy = false ∧ wordAt wide 0x404 (.sb 7 63)) ∧
    (ref.formulasFit ∧ 7 < ref.nbuf ∧ 31 < ref.bufBits / 32) := by
  refine ⟨⟨ref_ok, by decide, ?_, ?_⟩, ⟨wide_ok.1, rfl, ?_⟩, by decide⟩
  · rw [ref_wordAt]; decide
  · rw [ref_wordAt]; decide
  · rw [wordAt, if_neg (by decide)]; decide

/-- The last word of each array by the formula, and one of each by an ADDRESS_MAP. -/
theorem witness_IdleReadsReturnTheState :
    (ref.ok ∧ deg4.stBusy = false ∧ wordAt ref 0x107C (.mask true 15) ∧ wordAt ref 0x27FC (.row 31 15) ∧
      wordAt ref 0xFFC (.levels 511)) ∧
    (wide.ok ∧ (Block.powerOn wide).stBusy = false ∧ wordAt wide 0x1000 (.levels 1023) ∧
      wordAt wide 0x1004 (.mask true 1) ∧ wordAt wide 0x2000 (.row 1 0)) ∧
    (ref.formulasFit ∧ 15 < ref.mMax / 32 ∧ 31 ≤ ref.kMax ∧ 511 < ref.bufBits / 2) := by
  refine ⟨⟨ref_ok, by decide, ?_, ?_, ?_⟩, ⟨wide_ok.1, rfl, ?_, ?_, ?_⟩, by decide⟩
  · rw [ref_wordAt]; decide
  · rw [ref_wordAt]; decide
  · rw [ref_wordAt]; decide
  all_goals rw [wordAt, if_neg (by decide)]; decide

theorem witness_SoftResetKeepsTheArrays : deg4.stBusy = false ∧ (3 : Word).getLsbD 1 = true := by decide

/-- A latched LGEN, a latched word with an illegal field (D = 8 of LGEN) and one with an illegal opcode,
with an index just outside the write set of each. -/
theorem witness_AbandonedCommandTouchesOnlyItsWriteSet :
    (2 : Word).getLsbD 1 = true ∧
    ((deg4.issue 0x12100000).stBusy = true ∧
      ((deg4.issue 0x12100000).cmdLatch.extractLsb' 24 8).toNat = 0x12 ∧
      ((deg4.issue 0x12100000).cmdLatch.extractLsb' 20 4).toNat = 1 ∧
      ¬ 8 < (deg4.issue 0x12100000).glen.toNat) ∧
    ((deg4.issue 0x12800000).stBusy = true ∧
      decode ref.nbuf (deg4.issue 0x12800000).cmdLatch = .error .illegalField ∧
      ((deg4.issue 0x12800000).cmdLatch.extractLsb' 24 8).toNat = 0x12) ∧
    ((deg4.issue 0xFF000000).stBusy = true ∧
      decode ref.nbuf (deg4.issue 0xFF000000).cmdLatch = .error .illegalOpcode ∧
      ((deg4.issue 0xFF000000).cmdLatch.extractLsb' 24 8).toNat = 0xFF) := by decide

end Sys2Proof.Tests
end

section
/-! PROOFS. The base cases of the invariants: five of the six only speak of a loaded LFSR or of a started
matcher, and a reset leaves neither. -/

namespace Sys2Proof.Machine

/-! ### An invariant of a unit that is not initialised -/

section NotInitialised

variable {z : Params} {s : Block z}

theorem Block.lfsrOk_of_not_loaded (h : s.stLv = false) : s.lfsrOk :=
  fun loaded => absurd loaded (Bool.eq_false_iff.mp h)

theorem Block.matcherOk_of_not_started (h : s.stMv = false) : s.matcherOk :=
  fun started => absurd started (Bool.eq_false_iff.mp h)

theorem Block.windowOk_of_not_started (h : s.stMv = false) : s.windowOk :=
  fun started => absurd started (Bool.eq_false_iff.mp h)

theorem Block.nestedOk_of_not_started (h : s.stMv = false) : s.nestedOk :=
  fun started => absurd started (Bool.eq_false_iff.mp h)

theorem Block.resultsOk_of_not_started (h : s.stMv = false) : s.resultsOk :=
  fun started => absurd started (Bool.eq_false_iff.mp h)

/-- The outcome bits have no such guard; with no command in flight and no error recorded they agree. -/
theorem Block.outcomeOk_of_idle_of_no_error (hbusy : s.stBusy = false) (herr : s.stErr = false)
    (hcode : s.errcode = 0) : s.outcomeOk := by
  refine ⟨fun busy => absurd busy (Bool.eq_false_iff.mp hbusy), ?_, ?_⟩
  · simp [herr, hcode]
  · simp [hcode]

end NotInitialised

/-! ### The bits of the power-on state that the invariants ask about -/

@[simp] theorem Block.powerOn_stLv (z : Params) : (Block.powerOn z).stLv = false := rfl
@[simp] theorem Block.powerOn_stMv (z : Params) : (Block.powerOn z).stMv = false := rfl
@[simp] theorem Block.powerOn_stBusy (z : Params) : (Block.powerOn z).stBusy = false := rfl
@[simp] theorem Block.powerOn_stErr (z : Params) : (Block.powerOn z).stErr = false := rfl
@[simp] theorem Block.powerOn_errcode (z : Params) : (Block.powerOn z).errcode = 0 := rfl

/-! ### The reference configuration -/

theorem mapOk_of_addressMap_nil {z : Params} (h : z.addressMap = []) : z.mapOk := by
  simp [Params.mapOk, h]

/-- The sizes of the reference configuration are numerals, and it has no ADDRESS_MAP (00_scope.md R2). -/
theorem reference_ok : Params.reference.ok :=
  ⟨by decide, by decide, by decide, by decide, by decide, mapOk_of_addressMap_nil rfl⟩

/-! ### The statement -/

/-- Settles O7: after power-on no LFSR is loaded and no matcher started, and the outcome bits are clear. -/
theorem resetSatisfiesTheInvariants : Obligations.ResetSatisfiesTheInvariants := by
  refine ⟨rfl, reference_ok, fun z hz => ⟨⟨hz, ?lfsr⟩, ⟨hz, ?matcher⟩, ⟨hz, ?window⟩, ⟨hz, ?nested⟩,
    ⟨hz, ?outcome⟩, ⟨hz, ?results⟩⟩⟩
  case lfsr => exact Block.lfsrOk_of_not_loaded (Block.powerOn_stLv z)
  case matcher => exact Block.matcherOk_of_not_started (Block.powerOn_stMv z)
  case window => exact Block.windowOk_of_not_started (Block.powerOn_stMv z)
  case nested => exact Block.nestedOk_of_not_started (Block.powerOn_stMv z)
  case outcome =>
    exact Block.outcomeOk_of_idle_of_no_error (Block.powerOn_stBusy z) (Block.powerOn_stErr z)
      (Block.powerOn_errcode z)
  case results => exact Block.resultsOk_of_not_started (Block.powerOn_stMv z)

end Sys2Proof.Machine
end

section
/-! PROOFS. What a command, an access and a step can do to the two units and to the configuration, each
said once; the statements after it are derived from these. -/

namespace Sys2Proof.Machine

variable {z : Params} {s t u : Block z}

/-! ### What a command can do -/

/-- Everything a command can do to a block: record an error (which one is not said here) and nothing else,
or, with all its checks passed, have its effect. Each check stands as what it says of the operands. -/
inductive Executes (s : Block z) : Instr → Block z → Prop
  | error {i : Instr} (e : CmdErr) : Executes s i (s.cmdError e)
  | nop : Executes s .nop s
  | lload (load : s.loadLegal) : Executes s .lload s.lfsrLoad
  | lstep (loaded : s.stLv = true) : Executes s .lstep s.lfsrStep
  | lgen {d : BufIx} (buf : bufLegal z d) (load : s.loadLegal) (len : s.glenLegal) :
      Executes s (.lgen d) (lfsrRecord d.toNat 0 s.glen.toNat s.lfsrLoad)
  | lgens {d : BufIx} {sym : Bool} (buf : bufLegal z d) (load : s.loadLegal) (len : s.glenLegal) :
      Executes s (.lgens d sym) (lgensEffect d sym s)
  | enc {d a b c : BufIx} (bufs : ∀ x ∈ [d, a, b, c], bufLegal z x) (len : s.mLegal) :
      Executes s (.enc d a b c) (encLoop d.toNat a.toNat b.toNat c.toNat 0 0 s.m.toNat s)
  | minit {a : BufIx} (bufs : ∀ x ∈ [a], bufLegal z x) (len : s.mLegal) (budget : s.kLegal) :
      Executes s (.minit a) (s.mInit a.toNat)
  | mstep {c : Bool} (started : s.stMv = true) (room : s.pos.toNat < z.bufBits) :
      Executes s (.mstep c) (s.mStepBody c)
  | matchText {a b : BufIx} (bufs : ∀ x ∈ [a, b], bufLegal z x) (len : s.mLegal) (budget : s.kLegal)
      (text : s.nLegal) :
      Executes s (.matchText a b) (matchLoop a.toNat 0 s.n.toNat (s.mInit b.toNat))

/-- A checked command has what every recorded error has and what its effect has when all checks pass. -/
theorem checked_of_error_of_pass {R : Block z → Prop} {cs : List (Bool × CmdErr)}
    {f : Block z → Block z} (herr : ∀ e, R (s.cmdError e))
    (hpass : (∀ c ∈ cs, c.1 = false) → R (f s)) : R (checked cs f s) := by
  rcases checked_cases cs f s with ⟨e, -, h⟩ | ⟨hnone, h⟩
  · rw [h]; exact herr e
  · rw [h]; exact hpass ((firstFailing_eq_none cs).mp hnone)

/-- The checks of LGEN and LGENS pass only on legal operands. -/
theorem lgenChecks_pass {d : BufIx} (pass : ∀ c ∈ lgenChecks d s, c.1 = false) :
    bufLegal z d ∧ s.loadLegal ∧ s.glenLegal := by
  have hfield := (fieldCheck_fst (z := z) [d]).mp (pass _ (by simp [lgenChecks]))
  exact ⟨hfield d (by simp), (loadChecks_pass s).mp fun c hc => pass c (by simp [lgenChecks, hc]),
    (glenCheck_fst s).mp (pass _ (by simp [lgenChecks]))⟩

theorem executes_of_exec {i : Instr} (h : exec i ⟨z, s⟩ = .next ⟨z, t⟩) : Executes s i t := by
  cases i with
  | nop =>
    rw [exec_nop, next_inj] at h; subst h
    exact .nop
  | lload =>
    rw [exec_lload, next_inj] at h; subst h
    exact checked_of_error_of_pass .error fun pass => .lload ((loadChecks_pass s).mp pass)
  | lstep =>
    rw [exec_lstep, next_inj] at h; subst h
    exact checked_of_error_of_pass .error fun pass => .lstep (by simpa using pass)
  | lgen d =>
    rw [exec_lgen, next_inj] at h; subst h
    exact checked_of_error_of_pass .error fun pass =>
      have ⟨buf, load, len⟩ := lgenChecks_pass pass
      .lgen buf load len
  | lgens d sym =>
    rw [exec_lgens, next_inj] at h; subst h
    exact checked_of_error_of_pass .error fun pass =>
      have ⟨buf, load, len⟩ := lgenChecks_pass pass
      .lgens buf load len
  | enc d a b c =>
    rw [exec_enc, next_inj] at h; subst h
    exact checked_of_error_of_pass .error fun pass =>
      .enc ((fieldCheck_fst _).mp (pass _ (by simp))) ((mCheck_fst s).mp (pass _ (by simp)))
  | minit a =>
    rw [exec_minit, next_inj] at h; subst h
    exact checked_of_error_of_pass .error fun pass =>
      .minit ((fieldCheck_fst _).mp (pass _ (by simp))) ((mCheck_fst s).mp (pass _ (by simp)))
        ((kCheck_fst s).mp (pass _ (by simp)))
  | mstep c =>
    rw [exec_mstep, next_inj] at h; subst h
    refine checked_of_error_of_pass .error fun pass => ?_
    have ⟨started, room⟩ : s.stMv = true ∧ s.pos.toNat < z.bufBits := by simpa using pass
    exact .mstep started room
  | matchText a b =>
    rw [exec_match, next_inj] at h; subst h
    exact checked_of_error_of_pass .error fun pass =>
      .matchText ((fieldCheck_fst _).mp (pass _ (by simp))) ((mCheck_fst s).mp (pass _ (by simp)))
        ((kCheck_fst s).mp (pass _ (by simp))) ((nCheck_fst s).mp (pass _ (by simp)))

/-! ### The parts of a block, and the frames of the loops -/

/-- The block with every field outside the LFSR's latched state at its reset value: two blocks have the
same such part exactly when they agree on LV, ADEG, APOLY and S. -/
def Block.lfsrPart (s : Block z) : Block z :=
  { Block.powerOn z with stLv := s.stLv, adeg := s.adeg, apoly := s.apoly, lfsr := s.lfsr }

/-- The block with every field outside the matcher at its reset value: two blocks have the same such part
exactly when they agree on the matcher's registers, flags and arrays. -/
def Block.matcherPart (s : Block z) : Block z :=
  { Block.powerOn z with
    stMv := s.stMv, stAny := s.stAny, am := s.am, ak := s.ak, aso := s.aso, ains := s.ains
    pos := s.pos, lastLvl := s.lastLvl, minLvl := s.minLvl, mask0 := s.mask0, mask1 := s.mask1
    row := s.row, matchLvls := s.matchLvls }

/-- The block with every field a command may write at its reset value: two blocks have the same such part
exactly when they agree on the engine's latch, BUSY, DONE, IE, the configuration and the model's fields. -/
def Block.configPart (s : Block z) : Block z :=
  { Block.powerOn z with
    cmdLatch := s.cmdLatch, stBusy := s.stBusy, stDone := s.stDone, ie := s.ie
    cfgShiftOr := s.cfgShiftOr, cfgAllowIns := s.cfgAllowIns, cfgPreset := s.cfgPreset
    deg := s.deg, poly := s.poly, seed := s.seed, glen := s.glen, m := s.m, n := s.n, k := s.k
    inbox := s.inbox, resp := s.resp, draws := s.draws }

/-- The scan of the rows reads the matcher only. -/
theorem scanTop_matcherPart (s : Block z) : ∀ (count i : Nat),
    s.matcherPart.scanTop i count = s.scanTop i count := by
  intro count
  induction count with
  | zero => intro i; rfl
  | succ n ih => intro i; rw [Block.scanTop, Block.scanTop, ih]; rfl

/-- The level of the current rows reads the matcher only. -/
theorem curLevel_matcherPart (s : Block z) : s.matcherPart.curLevel = s.curLevel := by
  rw [Block.curLevel, Block.curLevel, scanTop_matcherPart]; rfl

theorem curLevel_eq_of_matcherPart (h : t.matcherPart = s.matcherPart) : t.curLevel = s.curLevel := by
  rw [← curLevel_matcherPart t, h, curLevel_matcherPart s]

/-- Skipping to a symbol changes S and OUT only. -/
theorem lfsrSkip_frame (sym : Bool) : ∀ (bound : Nat) (s : Block z),
    lfsrSkip sym bound s =
      { s with lfsr := (lfsrSkip sym bound s).lfsr, stOut := (lfsrSkip sym bound s).stOut } := by
  intro bound
  induction bound with
  | zero => intro s; rfl
  | succ n ih =>
    intro s
    rw [lfsrSkip]
    split
    · rfl
    · rw [ih]; rfl

/-- LGENS ends in the recording of bits or in an error, in both cases after the load and the skip. -/
theorem lgensEffect_cases (d : BufIx) (sym : Bool) (s : Block z) :
    ∃ t, t = lfsrSkip sym (2 ^ s.deg.toNat) s.lfsrLoad ∧
      (lgensEffect d sym s =
          lfsrRecord d.toNat 1 (s.glen.toNat - 1) (t.setSbBit d.toNat 0 t.stOut) ∨
        lgensEffect d sym s = t.cmdError .skipExhausted) := by
  refine ⟨_, rfl, ?_⟩
  rw [lgensEffect]
  split
  · exact .inl rfl
  · exact .inr rfl

/-- LGENS changes SB, the LFSR's registers and flags, ERR and ERRCODE only. -/
theorem lgensEffect_frame (d : BufIx) (sym : Bool) (s : Block z) :
    lgensEffect d sym s =
      { s with
        sb := (lgensEffect d sym s).sb, lfsr := (lgensEffect d sym s).lfsr
        adeg := (lgensEffect d sym s).adeg, apoly := (lgensEffect d sym s).apoly
        stLv := (lgensEffect d sym s).stLv, stOut := (lgensEffect d sym s).stOut
        stErr := (lgensEffect d sym s).stErr, errcode := (lgensEffect d sym s).errcode } := by
  obtain ⟨t, ht, h | h⟩ := lgensEffect_cases d sym s <;> rw [lfsrSkip_frame] at ht
  · rw [h, lfsrRecord_frame, ht]; rfl
  · rw [h, ht]; rfl

/-- No command writes the configuration, the engine's registers or the model's own fields. -/
theorem Executes.configPart {i : Instr} (h : Executes s i t) : t.configPart = s.configPart := by
  cases h with
  | error | nop | lload | lstep | minit | mstep => rfl
  | lgen => rw [lfsrRecord_frame]; rfl
  | lgens => rw [lgensEffect_frame]; rfl
  | enc => rw [encLoop_frame]; rfl
  | matchText => rw [matchLoop_frame]; rfl

end Sys2Proof.Machine
end

section
/-! PROOFS. Commands and the configuration: no command writes it, and the single steps do not read it. -/

namespace Sys2Proof.Machine

variable {z : Params}

/-- Settles O20: a command keeps the configuration part, and the fields named are fields of that part. -/
theorem commandsLeaveConfigurationAlone : Obligations.CommandsLeaveConfigurationAlone := by
  intro z i s t h
  have kept : t.configPart = s.configPart := (executes_of_exec h).configPart
  simpa only [Block.configPart, Block.mk.injEq, true_and, and_true] using kept

/-- The block with the configuration registers at other values. -/
def Block.withConfig (s : Block z) (so ai pre : Bool) (deg : BitVec 6) (poly seed : Word)
    (glen m n k : Half) : Block z :=
  { s with
    cfgShiftOr := so, cfgAllowIns := ai, cfgPreset := pre, deg := deg, poly := poly, seed := seed
    glen := glen, m := m, n := n, k := k }

section WithConfig

variable (s : Block z) (so ai pre : Bool) (deg : BitVec 6) (poly seed : Word) (glen m n k : Half)

theorem lfsrStep_withConfig :
    (s.withConfig so ai pre deg poly seed glen m n k).lfsrStep =
      s.lfsrStep.withConfig so ai pre deg poly seed glen m n k := rfl

/-- One symbol reads the matcher only. -/
theorem mStepBody_withConfig (c : Bool) :
    (s.withConfig so ai pre deg poly seed glen m n k).mStepBody c =
      (s.mStepBody c).withConfig so ai pre deg poly seed glen m n k := by
  have lvl : ((s.withConfig so ai pre deg poly seed glen m n k).updateRows c).curLevel =
      (s.updateRows c).curLevel := curLevel_eq_of_matcherPart rfl
  rw [mStepBody_frame, mStepBody_frame s, lvl]; rfl

/-- A checked command commutes with the change when its effect does. -/
theorem checked_withConfig {f : Block z → Block z} (cs : List (Bool × CmdErr))
    (heffect : f (s.withConfig so ai pre deg poly seed glen m n k) =
      (f s).withConfig so ai pre deg poly seed glen m n k) :
    checked cs f (s.withConfig so ai pre deg poly seed glen m n k) =
      (checked cs f s).withConfig so ai pre deg poly seed glen m n k := by
  cases hc : firstFailing cs with
  | some e => rw [checked_of_some hc, checked_of_some hc]; rfl
  | none => rw [checked_of_none hc, checked_of_none hc, heffect]

end WithConfig

/-- Settles O50: the checks of LSTEP and MSTEP read LV, MV and P, which no configuration register is, and
one LFSR step and one symbol commute with any change of these registers. -/
theorem stepsUseLatchedParametersOnly : Obligations.StepsUseLatchedParametersOnly := by
  intro z i s t so ai pre deg poly seed glen m n k hi h
  rcases hi with rfl | ⟨c, rfl⟩
  · rw [exec_lstep, next_inj] at h
    rw [exec_lstep, next_inj, ← h]
    exact checked_withConfig s so ai pre deg poly seed glen m n k _
      (lfsrStep_withConfig s so ai pre deg poly seed glen m n k)
  · rw [exec_mstep, next_inj] at h
    rw [exec_mstep, next_inj, ← h]
    exact checked_withConfig s so ai pre deg poly seed glen m n k _
      (mStepBody_withConfig s so ai pre deg poly seed glen m n k c)

end Sys2Proof.Machine
end

section
/-! PROOFS. The invariants of the two units: what must be shown so that every step keeps one. -/

namespace Sys2Proof.Machine

variable {z : Params} {s t u : Block z}

/-! ### What a step can do to the units -/

/-- The two blocks agree on the LFSR's latched state and on the matcher. -/
def Block.sameUnits (s t : Block z) : Prop := t.lfsrPart = s.lfsrPart ∧ t.matcherPart = s.matcherPart

/-- No LFSR is loaded and no matcher started. -/
def Block.unitsCleared (s : Block z) : Prop := s.stLv = false ∧ s.stMv = false

theorem softReset_unitsCleared (s : Block z) : s.softReset.unitsCleared := by
  rw [softReset_frame]; exact ⟨rfl, rfl⟩

/-- A host write of a place leaves both units alone, or is a soft reset. -/
theorem writePlace_units (s : Block z) (v : Word) (p : Place) :
    s.sameUnits (s.writePlace v p) ∨ (s.writePlace v p).unitsCleared := by
  rcases writePlace_cases s v p with
    h | ⟨-, h⟩ | ⟨-, -, h⟩ | ⟨-, -, h⟩ | ⟨-, h⟩ | ⟨b, w, -, h⟩ | ⟨r, -, -, -, h⟩
  case inr.inr.inl => rw [h]; exact .inr (softReset_unitsCleared s)
  all_goals rw [h]; exact .inl ⟨rfl, rfl⟩

/-- A host access leaves both units alone, or is a soft reset. -/
theorem hostAccess_units (s : Block z) (addr size : Nat) (kind : AccessKind) :
    s.sameUnits (s.hostAccess addr size kind) ∨ (s.hostAccess addr size kind).unitsCleared := by
  rw [Block.hostAccess]
  split
  · cases kind with
    | read => rw [portAccess_read]; exact .inl ⟨rfl, rfl⟩
    | write v =>
      rcases portAccess_write s (addr - z.base) size v with h | ⟨p, -, -, -, -, -, h⟩
      · rw [h, busError_frame]; exact .inl ⟨rfl, rfl⟩
      · rw [h]; exact writePlace_units s v p
  · exact .inl ⟨rfl, rfl⟩

/-- Completion executes some command and ends it; a word that does not decode counts as a NOP that
recorded an error. -/
theorem complete_executes {t : State} (h : complete ⟨z, s⟩ = .next t) :
    ∃ (i : Instr) (u : Block z), Executes s i u ∧ t = ⟨z, u.finish⟩ := by
  rcases complete_next h with ⟨e, -, rfl⟩ | ⟨i, u, -, hexec, rfl⟩
  · exact ⟨.nop, _, .error e, rfl⟩
  · exact ⟨i, u, executes_of_exec hexec, rfl⟩

/-- Everything one step can do to the units: leave them alone, clear them, or execute a command. -/
theorem step_units {t : State} (h : step ⟨z, s⟩ = .next t) :
    ∃ u : Block z, t = ⟨z, u⟩ ∧ (s.sameUnits u ∨ u.unitsCleared ∨
      ∃ (r : Block z) (i : Instr) (v : Block z), s.sameUnits r ∧ Executes r i v ∧ v.sameUnits u) := by
  obtain ⟨r, rfl, ⟨-, hc⟩ | ⟨-, rfl⟩ | ⟨addr, size, kind, rfl⟩ | rfl⟩ := step_next h
  · obtain ⟨i, v, hv, rfl⟩ := complete_executes hc
    exact ⟨_, rfl,
      .inr (.inr ⟨{ s with inbox := s.inbox.tail }, i, v, ⟨rfl, rfl⟩, hv, ⟨rfl, rfl⟩⟩)⟩
  · exact ⟨_, rfl, .inl ⟨rfl, rfl⟩⟩
  · exact ⟨_, rfl, (hostAccess_units _ addr size kind).imp_right .inl⟩
  · exact ⟨_, rfl, .inr (.inl ⟨rfl, rfl⟩)⟩

/-! ### Invariants of the units -/

/-- A property of the units that holds while they are cleared and that every command keeps. -/
structure UnitInvariant (inv : {z : Params} → Block z → Prop) : Prop where
  /-- It reads the units only. -/
  sameUnits : ∀ {z : Params} {s t : Block z}, s.sameUnits t → inv s → inv t
  cleared : ∀ {z : Params} {s : Block z}, s.unitsCleared → inv s
  executes : ∀ {z : Params} {s t : Block z} {i : Instr}, z.ok → inv s → Executes s i t → inv t

/-- Every step keeps an invariant of the units. -/
theorem UnitInvariant.step_keeps {inv : {z : Params} → Block z → Prop} (hinv : UnitInvariant inv)
    {s t : State} (hs : s.has inv) (h : step s = .next t) : t.has inv := by
  obtain ⟨z, s⟩ := s
  obtain ⟨hz, hs⟩ := hs
  obtain ⟨u, rfl, hu | hu | ⟨r, i, v, hr, hv, hu⟩⟩ := step_units h
  · exact ⟨hz, hinv.sameUnits hu hs⟩
  · exact ⟨hz, hinv.cleared hu⟩
  · exact ⟨hz, hinv.sameUnits hu (hinv.executes hz (hinv.sameUnits hr hs) hv)⟩

end Sys2Proof.Machine
end

section
/-! PROOFS. The loaded LFSR stays in range. -/

namespace Sys2Proof.Machine

variable {z : Params} {s t : Block z}

/-! ### Widths -/

/-- A vector with no bit at or above `w` is below 2^w. -/
theorem toNat_lt_two_pow_of_getLsbD {len w : Nat} {v : BitVec len}
    (h : ∀ i, w ≤ i → v.getLsbD i = false) : v.toNat < 2 ^ w :=
  Nat.lt_pow_two_of_testBit _ fun i hi => by rw [BitVec.testBit_toNat]; exact h i hi

/-- One LFSR step stays inside its window, whatever the state was. -/
theorem lfsrNext_lt {len deg : Nat} (hdeg : 1 ≤ deg) (poly st : BitVec len) :
    (lfsrNext deg poly st).toNat < 2 ^ deg := by
  refine toNat_lt_two_pow_of_getLsbD fun i hi => ?_
  rw [getLsbD_lfsrNext, if_neg (by omega), decide_eq_false (by omega : ¬ i < deg)]
  simp

/-- A value below a bound stays below it in another width. -/
theorem toNat_setWidth_lt {len len' b : Nat} {v : BitVec len} (h : v.toNat < b) :
    (v.setWidth len').toNat < b := by
  rw [BitVec.toNat_setWidth]
  exact Nat.lt_of_le_of_lt (Nat.mod_le _ _) h

/-- A legal load's polynomial is below 2^DEG, the preset constants too. -/
theorem loadPoly_lt (h : s.loadLegal) : s.loadPoly.toNat < 2 ^ s.deg.toNat := by
  obtain ⟨hdeg, hpoly, -⟩ := h
  rw [Block.loadPoly]
  cases hp : s.cfgPreset with
  | false => exact hpoly hp
  | true =>
    rw [if_pos rfl]
    rcases hdeg.1 hp with h | h <;> rw [h] <;> decide

/-- A legal degree is in 1..DEG_MAX, the preset degrees too, because DEG_MAX is 16 at least. -/
theorem deg_range (hz : z.ok) (h : s.degreeLegal) : 1 ≤ s.deg.toNat ∧ s.deg.toNat ≤ z.degMax := by
  obtain ⟨-, -, -, -, ⟨hmax, -⟩, -⟩ := hz
  cases hp : s.cfgPreset with
  | false => exact h.2 hp
  | true => rcases h.1 hp with h | h <;> rw [h] <;> exact ⟨by decide, by simpa using by omega⟩

/-! ### The operations of the LFSR unit -/

/-- The range only speaks of the LFSR's latched state. -/
theorem lfsrOk_of_lfsrPart (h : t.lfsrPart = s.lfsrPart) (hs : s.lfsrOk) : t.lfsrOk :=
  (congrArg Block.lfsrOk h).mpr hs

theorem lfsrOk_lfsrLoad (hz : z.ok) (h : s.loadLegal) : s.lfsrLoad.lfsrOk := fun _ =>
  ⟨(deg_range hz h.1).1, (deg_range hz h.1).2,
    toNat_setWidth_lt (by rw [effPoly_eq s h.1]; exact loadPoly_lt h), toNat_setWidth_lt h.2.2⟩

theorem lfsrOk_lfsrStep (hs : s.lfsrOk) : s.lfsrStep.lfsrOk := fun loaded =>
  have ⟨hpos, hmax, hpoly, _⟩ := hs loaded
  ⟨hpos, hmax, hpoly, lfsrNext_lt hpos _ _⟩

theorem lfsrOk_lfsrRecord (b : Nat) : ∀ (count i : Nat) (s : Block z),
    s.lfsrOk → (lfsrRecord b i count s).lfsrOk := by
  intro count
  induction count with
  | zero => intro i s hs; exact hs
  | succ n ih => intro i s hs; exact ih _ _ (lfsrOk_of_lfsrPart rfl (lfsrOk_lfsrStep hs))

theorem lfsrOk_lfsrSkip (sym : Bool) : ∀ (bound : Nat) (s : Block z),
    s.lfsrOk → (lfsrSkip sym bound s).lfsrOk := by
  intro bound
  induction bound with
  | zero => intro s hs; exact hs
  | succ n ih =>
    intro s hs
    rw [lfsrSkip]
    split
    · exact lfsrOk_lfsrStep hs
    · exact ih _ (lfsrOk_lfsrStep hs)

theorem lfsrOk_lgensEffect (d : BufIx) (sym : Bool) (hs : s.lfsrLoad.lfsrOk) :
    (lgensEffect d sym s).lfsrOk := by
  obtain ⟨t, rfl, h | h⟩ := lgensEffect_cases d sym s <;> rw [h]
  · exact lfsrOk_lfsrRecord _ _ _ _ (lfsrOk_of_lfsrPart rfl (lfsrOk_lfsrSkip sym _ _ hs))
  · exact lfsrOk_of_lfsrPart rfl (lfsrOk_lfsrSkip sym _ _ hs)

/-! ### The statement -/

/-- Every command keeps the loaded LFSR in range: a load makes it so and a step keeps it. -/
theorem Executes.lfsrOk {i : Instr} (h : Executes s i t) (hz : z.ok) (hs : s.lfsrOk) : t.lfsrOk := by
  cases h with
  | error | nop | minit | mstep => exact lfsrOk_of_lfsrPart rfl hs
  | enc => rw [encLoop_frame]; exact lfsrOk_of_lfsrPart rfl hs
  | matchText => rw [matchLoop_frame]; exact lfsrOk_of_lfsrPart rfl hs
  | lload load => exact lfsrOk_lfsrLoad hz load
  | lstep => exact lfsrOk_lfsrStep hs
  | lgen _ load => exact lfsrOk_lfsrRecord _ _ _ _ (lfsrOk_lfsrLoad hz load)
  | lgens _ load => exact lfsrOk_lgensEffect _ _ (lfsrOk_lfsrLoad hz load)

/-- 10_state.md R61 is an invariant of the units. -/
theorem lfsrOk_invariant : UnitInvariant Block.lfsrOk where
  sameUnits same := lfsrOk_of_lfsrPart same.1
  cleared hclear := Block.lfsrOk_of_not_loaded hclear.1
  executes hz hs hexec := hexec.lfsrOk hz hs

/-- Settles O8: R61 is an invariant of the units, which every step keeps. -/
theorem stepKeepsLfsrInRange : Obligations.StepKeepsLfsrInRange :=
  fun _ _ => lfsrOk_invariant.step_keeps

end Sys2Proof.Machine
end

section
/-! PROOFS. The invariants of the matcher: each is shown for a preprocessed pattern and kept by one symbol;
that every command and every step keeps it follows once for all. -/

namespace Sys2Proof.Machine

variable {z : Params} {s t : Block z}

/-! ### What a preprocessed pattern and a symbol must be shown to do -/

/-- A property of the matcher that holds while it is not started and after MInit of a legal pattern, and
that a symbol keeps where the matcher is in range and MATCHES has room. -/
structure MatcherInvariant (inv : {z : Params} → Block z → Prop) : Prop where
  /-- It reads the matcher only. -/
  matcherPart : ∀ {z : Params} {s t : Block z}, t.matcherPart = s.matcherPart → inv s → inv t
  not_started : ∀ {z : Params} {s : Block z}, s.stMv = false → inv s
  mInit : ∀ {z : Params} {s : Block z} (b : Nat), z.ok → s.mLegal → s.kLegal → inv (s.mInit b)
  mStepBody : ∀ {z : Params} {s : Block z} (c : Bool), z.ok → s.stMv = true →
    s.pos.toNat < z.bufBits → s.matcherOk → inv s → inv (s.mStepBody c)

/-- A position with room for one more level is no 16-bit maximum, because BUF_BITS is 32768 at most. -/
theorem toNat_pos_add_one (hz : z.ok) (room : s.pos.toNat < z.bufBits) :
    (s.pos + 1).toNat = s.pos.toNat + 1 := by
  obtain ⟨-, ⟨-, hmax⟩, -⟩ := hz
  rw [BitVec.toNat_add]
  exact Nat.mod_eq_of_lt (by simp; omega)

theorem matcherOk_mStepBody (hz : z.ok) (c : Bool) (started : s.stMv = true)
    (room : s.pos.toNat < z.bufBits) (hs : s.matcherOk) : (s.mStepBody c).matcherOk := fun _ => by
  obtain ⟨hm, hmmax, hk, hkmax, -, hmin⟩ := hs started
  refine ⟨hm, hmmax, hk, hkmax, ?pos, ?min⟩
  case pos =>
    rw [mStepBody_frame]
    exact (toNat_pos_add_one hz room).trans_le room
  case min =>
    rw [mStepBody_frame]
    change (if _ then _ else s.minLvl).toNat ≤ s.am.toNat
    split <;> omega

/-- 10_state.md R62 holds after MInit of a legal pattern and is kept by a symbol. -/
theorem matcherOk_matcherInvariant : MatcherInvariant Block.matcherOk where
  matcherPart h := (congrArg Block.matcherOk h).mpr
  not_started := Block.matcherOk_of_not_started
  mInit _ _ len budget _ :=
    ⟨len.1, len.2, budget.1, budget.2, Nat.zero_le _, Nat.le_refl _⟩
  mStepBody c hz started room _ hs := matcherOk_mStepBody hz c started room hs

section

variable {inv : {z : Params} → Block z → Prop} (hinv : MatcherInvariant inv)
include hinv

/-- A text keeps a matcher invariant, where MATCHES has room for all its symbols. -/
theorem MatcherInvariant.matchLoop (hz : z.ok) (a : Nat) : ∀ (count p : Nat) (s : Block z),
    s.stMv = true → s.pos.toNat + count ≤ z.bufBits → s.matcherOk → inv s →
      (matchLoop a p count s).matcherOk ∧ inv (matchLoop a p count s) := by
  intro count
  induction count with
  | zero => intro p s _ _ hok hs; exact ⟨hok, hs⟩
  | succ n ih =>
    intro p s started room hok hs
    have hpos : s.pos.toNat < z.bufBits := by omega
    have room' : (s.mStepBody (s.sbBit a p)).pos.toNat + n ≤ z.bufBits := by
      rw [mStepBody_frame]
      change (s.pos + 1).toNat + n ≤ z.bufBits
      rw [toNat_pos_add_one hz hpos]; omega
    exact ih _ _ started room' (matcherOk_mStepBody hz _ started hpos hok)
      (hinv.mStepBody _ hz started hpos hok hs)

/-- Every command keeps a matcher invariant, along with the matcher's range. -/
theorem MatcherInvariant.executes {i : Instr} (hz : z.ok) (hok : s.matcherOk) (hs : inv s)
    (h : Executes s i t) : t.matcherOk ∧ inv t := by
  have unread : t.matcherPart = s.matcherPart → t.matcherOk ∧ inv t := fun same =>
    ⟨matcherOk_matcherInvariant.matcherPart same hok, hinv.matcherPart same hs⟩
  have init : ∀ b, s.mLegal → s.kLegal → (s.mInit b).matcherOk ∧ inv (s.mInit b) :=
    fun b len budget => ⟨matcherOk_matcherInvariant.mInit b hz len budget, hinv.mInit b hz len budget⟩
  cases h with
  | error | nop | lload | lstep => exact unread rfl
  | lgen => exact unread (by rw [lfsrRecord_frame]; rfl)
  | lgens => exact unread (by rw [lgensEffect_frame]; rfl)
  | enc => exact unread (by rw [encLoop_frame]; rfl)
  | minit _ len budget => exact init _ len budget
  | mstep started room =>
    exact ⟨matcherOk_mStepBody hz _ started room hok, hinv.mStepBody _ hz started room hok hs⟩
  | matchText _ len budget text =>
    obtain ⟨hok', hs'⟩ := init _ len budget
    exact hinv.matchLoop hz _ _ _ _ rfl (by simpa using text.2) hok' hs'

/-- A matcher invariant and the matcher's range are together an invariant of the units. -/
theorem MatcherInvariant.unitInvariant :
    UnitInvariant fun {z} (s : Block z) => s.matcherOk ∧ inv s where
  sameUnits same := And.imp (matcherOk_matcherInvariant.matcherPart same.2) (hinv.matcherPart same.2)
  cleared hclear := ⟨Block.matcherOk_of_not_started hclear.2, hinv.not_started hclear.2⟩
  executes hz hs hexec := hinv.executes hz hs.1 hs.2 hexec

/-- Every step from a matcher in range keeps a matcher invariant. -/
theorem MatcherInvariant.step_keeps {s t : State} (hok : s.has Block.matcherOk) (hs : s.has inv)
    (h : step s = .next t) : t.has inv :=
  have ht := hinv.unitInvariant.step_keeps ⟨hok.1, hok.2, hs.2⟩ h
  ⟨ht.1, ht.2.2⟩

end

/-- Settles O9: R62 is its own premise. -/
theorem stepKeepsMatcherInRange : Obligations.StepKeepsMatcherInRange :=
  fun _ _ hs => matcherOk_matcherInvariant.step_keeps hs hs

/-! ### The window of the masks and rows -/

/-- A windowed shift has no bit at or above its window. -/
theorem getLsbD_shlW_of_le {len w j : Nat} (v : BitVec len) (h : w ≤ j) :
    (shlW w v).getLsbD j = false := by
  rw [getLsbD_shlW, decide_eq_false (by omega : ¬ j < w)]; simp

/-- With one fill it has none either, where the window is not empty. -/
theorem getLsbD_shl1W_of_le {len w j : Nat} (hw : 1 ≤ w) (v : BitVec len) (h : w ≤ j) :
    (shl1W w v).getLsbD j = false := by
  rw [getLsbD_shl1W, decide_eq_false (by omega : ¬ j < w), decide_eq_false (by omega : ¬ j = 0)]; simp

/-- Row 0 stays inside the window when the mask and row 0 do. -/
theorem getLsbD_stepRow0_of_le {am j : Nat} (aso : Bool) {mask r : Row z} (h : am ≤ j)
    (hmask : mask.getLsbD j = false) : (stepRow0 am aso mask r).getLsbD j = false := by
  rw [stepRow0]
  cases aso <;> simp [hmask, getLsbD_shlW_of_le _ h]

/-- A row above row 0 stays inside the window when the mask and the row below before the symbol do. -/
theorem getLsbD_stepRowI_of_le {am j : Nat} (aso ains : Bool) {mask old new r : Row z} (ham : 1 ≤ am)
    (h : am ≤ j) (hmask : mask.getLsbD j = false) (hold : old.getLsbD j = false) :
    (stepRowI am aso ains mask old new r).getLsbD j = false := by
  rw [stepRowI]
  cases aso <;> cases ains <;> simp [hmask, hold, getLsbD_shl1W_of_le ham _ h]

theorem windowOk_mStepBody (c : Bool) (started : s.stMv = true) (hok : s.matcherOk)
    (hs : s.windowOk) : (s.mStepBody c).windowOk := fun _ j hj => by
  obtain ⟨ham, -, -, hkmax, -⟩ := hok started
  obtain ⟨hmask0, hmask1, hrow⟩ := hs started j hj
  have hmask : (s.mask c).getLsbD j = false := by cases c <;> assumption
  refine ⟨hmask0, hmask1, fun k hk => ?_⟩
  change ((s.updateRows c).rowK k).getLsbD j = false
  cases k with
  | zero =>
    rw [rowK_updateRows_zero s c hkmax]
    exact getLsbD_stepRow0_of_le _ hj hmask
  | succ k =>
    rw [rowK_updateRows_succ s c hkmax k hk]
    exact getLsbD_stepRowI_of_le _ _ ham hj hmask (hrow k (Nat.le_of_succ_le hk))

theorem windowOk_mInit (b : Nat) (budget : s.kLegal) : (s.mInit b).windowOk := fun _ j hj => by
  have hj : s.m.toNat ≤ j := hj
  have hmask : ∀ c, (buildMask (z := z) (s.sbBit b) s.m.toNat s.cfgShiftOr c).getLsbD j = false := by
    intro c
    rw [getLsbD_buildMask, decide_eq_false (by omega : ¬ j < s.m.toNat)]; simp
  refine ⟨hmask false, hmask true, fun k hk => ?_⟩
  change (rowAt (buildRows s.m.toNat s.k.toNat s.cfgShiftOr s.row) k).getLsbD j = false
  have hk : k ≤ s.k.toNat := hk
  obtain ⟨hkm, hkmax⟩ := budget
  rw [rowAt_buildRows, if_pos ⟨hk, by omega⟩, getLsbD_initRow, decide_eq_false (by omega : ¬ j < k),
    decide_eq_false (by omega : ¬ j < s.m.toNat)]
  simp

/-- 43_matcher.md R236 holds after MInit of a legal pattern and is kept by a symbol. -/
theorem windowOk_matcherInvariant : MatcherInvariant Block.windowOk where
  matcherPart h := (congrArg Block.windowOk h).mpr
  not_started := Block.windowOk_of_not_started
  mInit b _ _ budget := windowOk_mInit b budget
  mStepBody c _ started _ hok hs := windowOk_mStepBody c started hok hs

/-- Settles O10: R236 is a matcher invariant. -/
theorem stepKeepsMatcherWindow : Obligations.StepKeepsMatcherWindow :=
  fun _ _ => windowOk_matcherInvariant.step_keeps

/-! ### The nesting of the rows -/

/-- Inside the window a shift with zero fill moves the bits up. -/
theorem getElem_shlW_of_lt {len w j : Nat} (v : BitVec len) (hw : j < w) (hlen : j < len) :
    (shlW w v)[j] = (decide (0 < j) && v.getLsbD (j - 1)) := by
  rw [← BitVec.getLsbD_eq_getElem, getLsbD_shlW, decide_eq_true hlen, decide_eq_true hw]; simp

/-- Inside the window a shift with one fill moves the bits up, a one entering. -/
theorem getElem_shl1W_of_lt {len w j : Nat} (v : BitVec len) (hw : j < w) (hlen : j < len) :
    (shl1W w v)[j] = (decide (j = 0) || v.getLsbD (j - 1)) := by
  rw [← BitVec.getLsbD_eq_getElem, getLsbD_shl1W, decide_eq_true hlen, decide_eq_true hw]; simp

/-- Bit j of MASK[c] has the matched polarity: the pattern has the symbol `c` there (43_matcher.md R211). -/
def Block.hit (s : Block z) (c : Bool) (j : Nat) : Bool := (s.mask c).getLsbD j != s.aso

/-- Row 0 after one symbol, in the matched polarity: one rule for both conventions. -/
theorem lit_mStepBody_zero (c : Bool) {j : Nat} (hkmax : s.ak.toNat ≤ z.kMax) (hj : j < s.am.toNat)
    (hjmax : j < z.mMax) :
    (s.mStepBody c).lit 0 j = ((decide (j = 0) || s.lit 0 (j - 1)) && s.hit c j) := by
  change (((s.updateRows c).rowK 0).getLsbD j != s.aso) = _
  rw [rowK_updateRows_zero s c hkmax, stepRow0, Block.lit, Block.hit]
  cases s.aso
  · simp [getElem_shl1W_of_lt, hj, hjmax]
  · simp [getElem_shlW_of_lt, hj, hjmax, Nat.pos_iff_ne_zero]

/-- A row above row 0 after one symbol, in the matched polarity: a match or mismatch step from the row
itself, an extra text symbol or, with insertion, a missing one from the row below. -/
theorem lit_mStepBody_succ (c : Bool) {k j : Nat} (hkmax : s.ak.toNat ≤ z.kMax) (hk : k < s.ak.toNat)
    (hj : j < s.am.toNat) (hjmax : j < z.mMax) :
    (s.mStepBody c).lit (k + 1) j =
      (((decide (j = 0) || s.lit (k + 1) (j - 1)) && s.hit c j) || s.lit k j ||
        (s.ains && (decide (j = 0) || (s.lit k (j - 1) || (s.mStepBody c).lit k (j - 1))))) := by
  have hlit : ∀ k i, (s.mStepBody c).lit k i = (((s.updateRows c).rowK k).getLsbD i != s.aso) :=
    fun _ _ => rfl
  rw [hlit, hlit, rowK_updateRows_succ s c hkmax k hk, stepRowI, Block.lit, Block.lit, Block.lit,
    Block.hit]
  cases s.aso <;> cases s.ains
  · simp [getElem_shl1W_of_lt, hj, hjmax]
  · simp [getElem_shl1W_of_lt, hj, hjmax]
  · simp [getElem_shlW_of_lt, hj, hjmax, Nat.pos_iff_ne_zero]
  · simp [getElem_shlW_of_lt, hj, hjmax, Nat.pos_iff_ne_zero]

/-- The rows stay nested: each source of a row's literal is, in the row above it, a source again. -/
theorem nestedOk_mStepBody (c : Bool) (started : s.stMv = true) (hok : s.matcherOk)
    (hs : s.nestedOk) : (s.mStepBody c).nestedOk := by
  obtain ⟨-, hmmax, -, hkmax, -⟩ := hok started
  have shifted : ∀ {j}, j < s.am.toNat → j - 1 < s.am.toNat := Nat.lt_of_le_of_lt (Nat.sub_le _ 1)
  have horizontal : ∀ {k j}, k < s.ak.toNat → j < s.am.toNat →
      (j = 0 ∨ s.lit k (j - 1) = true) ∧ s.hit c j = true →
      (j = 0 ∨ s.lit (k + 1) (j - 1) = true) ∧ s.hit c j = true :=
    fun hk hj => And.imp_left (Or.imp_right (hs started _ _ hk (shifted hj)))
  intro _ k
  change ∀ j, k < s.ak.toNat → j < s.am.toNat → _
  induction k with
  | zero =>
    intro j hk hj
    have hjmax : j < z.mMax := Nat.lt_of_lt_of_le hj hmmax
    rw [lit_mStepBody_succ c hkmax hk hj hjmax, lit_mStepBody_zero c hkmax hj hjmax]
    simp only [Bool.or_eq_true, Bool.and_eq_true, decide_eq_true_eq]
    exact fun h => .inl (.inl (horizontal hk hj h))
  | succ k ih =>
    intro j hk hj
    have hk' : k < s.ak.toNat := Nat.lt_of_succ_lt hk
    have hjmax : j < z.mMax := Nat.lt_of_lt_of_le hj hmmax
    rw [lit_mStepBody_succ c hkmax hk hj hjmax, lit_mStepBody_succ c hkmax hk' hj hjmax]
    simp only [Bool.or_eq_true, Bool.and_eq_true, decide_eq_true_eq]
    rintro ((h | h) | ⟨hins, h⟩)
    · exact .inl (.inl (horizontal hk hj h))
    · exact .inl (.inr (hs started k j hk' hj h))
    · exact .inr ⟨hins, h.imp_right
        (Or.imp (hs started k _ hk' (shifted hj)) (ih (j - 1) hk' (shifted hj)))⟩

theorem nestedOk_mInit (b : Nat) (len : s.mLegal) (budget : s.kLegal) : (s.mInit b).nestedOk := by
  intro _ k j hk hj
  have hk : k < s.k.toNat := hk
  have hj : j < s.m.toNat := hj
  obtain ⟨-, hmmax⟩ := len
  obtain ⟨-, hkmax⟩ := budget
  have hlit : ∀ i, i ≤ s.k.toNat → (s.mInit b).lit i j = decide (j < i) := by
    intro i hi
    change ((rowAt (buildRows s.m.toNat s.k.toNat s.cfgShiftOr s.row) i).getLsbD j != s.cfgShiftOr) = _
    rw [rowAt_buildRows, if_pos ⟨hi, by omega⟩, getLsbD_initRow, decide_eq_true hj,
      decide_eq_true (by omega : j < z.mMax)]
    cases s.cfgShiftOr <;> simp
  rw [hlit k (by omega), hlit (k + 1) hk, decide_eq_true_eq, decide_eq_true_eq]
  omega

/-- 43_matcher.md R237 holds after MInit of a legal pattern and is kept by a symbol. -/
theorem nestedOk_matcherInvariant : MatcherInvariant Block.nestedOk where
  matcherPart h := (congrArg Block.nestedOk h).mpr
  not_started := Block.nestedOk_of_not_started
  mInit b _ len budget := nestedOk_mInit b len budget
  mStepBody c _ started _ hok hs := nestedOk_mStepBody c started hok hs

/-- Settles O11: R237 is a matcher invariant. -/
theorem stepKeepsRowsNested : Obligations.StepKeepsRowsNested :=
  fun _ _ => nestedOk_matcherInvariant.step_keeps

/-! ### The recorded results -/

/-- What Record writes at the current position, the level of every other position staying. -/
theorem level_mStepBody (c : Bool) (room : s.pos.toNat < z.bufBits) (p : Nat) :
    (s.mStepBody c).level p = if p = s.pos.toNat then (s.updateRows c).curLevel else s.level p := by
  have h := level_setLevel (s.updateRows c) s.pos.toNat (s.updateRows c).curLevel p
  simp only [room, and_true] at h
  exact h

/-- The level of a position is AK at most, or AM. -/
theorem curLevel_le_or_eq (s : Block z) : s.curLevel.toNat ≤ s.ak.toNat ∨ s.curLevel = s.am := by
  rcases curLevel_cases s with ⟨-, h⟩ | ⟨h, -⟩
  · exact .inr h
  · exact .inl h

theorem resultsOk_mInit (b : Nat) : (s.mInit b).resultsOk := fun _ =>
  ⟨fun p hp => absurd hp (Nat.not_lt_zero p), .inl rfl, rfl, by simp⟩

theorem resultsOk_mStepBody (hz : z.ok) (c : Bool) (started : s.stMv = true)
    (room : s.pos.toNat < z.bufBits) (hok : s.matcherOk) (hs : s.resultsOk) :
    (s.mStepBody c).resultsOk := fun _ => by
  obtain ⟨-, -, -, -, -, hminam⟩ := hok started
  obtain ⟨hlevels, hmin, -, hany⟩ := hs started
  have hnew := curLevel_le_or_eq (s.updateRows c)
  have hlevel := level_mStepBody c room
  have hpos : (s.mStepBody c).pos.toNat = s.pos.toNat + 1 := toNat_pos_add_one hz room
  have hminLvl : (s.mStepBody c).minLvl = if (s.updateRows c).curLevel.toNat < s.minLvl.toNat
    then (s.updateRows c).curLevel else s.minLvl := rfl
  rw [hpos, hminLvl]
  refine ⟨fun p hp => ?levels, ?least, ?last, ?any⟩
  case levels =>
    rw [hlevel]
    by_cases hcur : p = s.pos.toNat
    · rw [if_pos hcur]
      exact ⟨hnew, by split <;> omega⟩
    · rw [if_neg hcur]
      obtain ⟨hrange, hle⟩ := hlevels p (by omega)
      exact ⟨hrange, by split <;> omega⟩
  case least =>
    split
    · exact .inr ⟨s.pos.toNat, by omega, by rw [hlevel, if_pos rfl]⟩
    · refine hmin.imp id fun ⟨p, hp, heq⟩ => ⟨p, by omega, ?_⟩
      rw [hlevel, if_neg (by omega), heq]
  case last =>
    have hne : ¬ (s.mStepBody c).pos = 0 := fun h => by simp [h] at hpos
    rw [if_neg hne, hlevel, if_pos (Nat.add_sub_cancel _ 1)]
    rfl
  case any =>
    change (s.stAny || decide ((s.updateRows c).curLevel.toNat < s.am.toNat)) = true ↔
      _ < s.am.toNat
    rw [Bool.or_eq_true, decide_eq_true_eq, hany]
    split <;> omega

/-- The results agree after MInit of a pattern, when no level is recorded, and a symbol keeps them so. -/
theorem resultsOk_matcherInvariant : MatcherInvariant Block.resultsOk where
  matcherPart h := (congrArg Block.resultsOk h).mpr
  not_started := Block.resultsOk_of_not_started
  mInit b _ _ _ := resultsOk_mInit b
  mStepBody c hz started room hok hs := resultsOk_mStepBody hz c started room hok hs

/-- Settles O13: the agreement of the results is a matcher invariant. -/
theorem stepKeepsResultsConsistent : Obligations.StepKeepsResultsConsistent :=
  fun _ _ => resultsOk_matcherInvariant.step_keeps

end Sys2Proof.Machine
end

section
/-! PROOFS. The registers that always answer, the STATUS word, and the values of all registers after a
reset. -/

namespace Sys2Proof.Machine

variable {z : Params} {s : Block z}

/-! ### Accesses that proceed whether the block is busy or not -/

theorem portAccess_read_allowed {off : Nat} {p : Place} (h4 : off % 4 = 0)
    (hp : placeAt z off = some p) (hallowed : allowedWhileBusy .read p = true) :
    s.portAccess off 4 .read = { s with resp := .readData (s.readPlace p) } := by
  rw [Block.portAccess, if_neg (by omega), hp]; simp [hallowed]

theorem portAccess_write_allowed {off : Nat} {p : Place} (v : Word) (h4 : off % 4 = 0)
    (hp : placeAt z off = some p) (hallowed : allowedWhileBusy (.write v) p = true)
    (hwritable : readOnly p = false) :
    s.portAccess off 4 (.write v) = { s.writePlace v p with resp := .writeDone } := by
  rw [Block.portAccess, if_neg (by omega), hp]; simp [hallowed, hwritable]

/-- Each flag stands at its bit of the STATUS word (10_state.md R33). -/
theorem getLsbD_statusWord (s : Block z) (i : Nat) : s.statusWord.getLsbD i =
    if i = 0 then s.stBusy else if i = 1 then s.stDone else if i = 2 then s.stErr
    else if i = 3 then s.stAny else if i = 4 then s.stOut else if i = 5 then s.stLv
    else if i = 6 then s.stMv else if 8 ≤ i ∧ i < 16 then s.errcode.getLsbD (i - 8) else false := by
  simp only [Block.statusWord, BitVec.getLsbD_or, BitVec.getLsbD_setWidth, BitVec.getLsbD_shiftLeft,
    getLsbD_ofBits]
  rcases Nat.lt_or_ge i 8 with hlow | hhigh
  · interval_cases i <;> simp
  · have hnoflag : ∀ k < 8, ¬ i = k := fun k hk => by omega
    have hcode : ¬ i < 16 → s.errcode.getLsbD (i - 8) = false :=
      fun h => BitVec.getLsbD_of_ge _ _ (by omega)
    rw [decide_eq_false (Nat.not_lt.mpr hhigh)]
    by_cases hbyte : i < 16
    · simp [hnoflag, hhigh, hbyte, (by omega : i < 32), (by omega : i - 8 < 32)]
    · simp [hnoflag, hbyte, hcode hbyte]

/-- Settles O55: each of these accesses is one that proceeds while BUSY, so it proceeds in every state. -/
theorem statusAndControlAlwaysAnswer : Obligations.StatusAndControlAlwaysAnswer := by
  intro z s v
  refine ⟨?id, ?ctrl, ?status, ?writeCtrl, ?writeStatus, getLsbD_statusWord s⟩
  case id => exact portAccess_read_allowed (p := .reg .id) rfl rfl rfl
  case ctrl =>
    rw [portAccess_read_allowed (p := .reg .ctrl) rfl rfl rfl, Block.readPlace, Block.readReg]
    cases s.ie <;> rfl
  case status => exact portAccess_read_allowed (p := .reg .status) rfl rfl rfl
  case writeCtrl =>
    intro hsrst
    rw [portAccess_write_allowed v (p := .reg .ctrl) rfl rfl rfl rfl, Block.writePlace, Block.writeReg,
      Block.writeCtrl, if_neg (Bool.eq_false_iff.mp hsrst)]
  case writeStatus => exact portAccess_write_allowed v (p := .reg .status) rfl rfl rfl rfl

/-! ### Reset -/

/-- After power-on every register has its value in the table of 10_state.md R69. -/
theorem powerOn_registersAtReset (z : Params) : (Block.powerOn z).registersAtReset := by
  have hstatus : (Block.powerOn z).statusWord = 0 :=
    BitVec.eq_of_getLsbD_eq fun i _ => by simp [getLsbD_statusWord, Block.powerOn]
  exact ⟨rfl, rfl, hstatus, rfl, rfl, rfl, rfl, rfl, rfl, rfl, rfl, rfl, rfl, rfl, rfl, rfl, rfl, rfl,
    rfl, rfl, rfl, rfl, rfl, rfl, rfl, rfl, rfl, rfl, rfl, rfl, rfl, rfl⟩

/-- The table speaks of no array and of no field of the model's own, and the rest of a block after a
reset is as after power-on. -/
theorem hardReset_registersAtReset (s : Block z) : s.hardReset.registersAtReset :=
  powerOn_registersAtReset z

theorem softReset_registersAtReset (s : Block z) : s.softReset.registersAtReset := by
  rw [softReset_frame]
  exact powerOn_registersAtReset z

/-- Settles O6: power-on sets the table's values, and both resets take every register from power-on. -/
theorem resetGivesTheTable : Obligations.ResetGivesTheTable :=
  ⟨powerOn_registersAtReset _, fun z => ⟨powerOn_registersAtReset z, fun s =>
    ⟨hardReset_registersAtReset s, softReset_registersAtReset s⟩⟩⟩

end Sys2Proof.Machine
end

section
/-! PROOFS. The host port: the configuration registers read back what they store, and what is refused
changes nothing. -/

namespace Sys2Proof.Machine

variable {z : Params} {s : Block z}

/-! ### The configuration registers -/

/-- A write of a writable register of an idle block. -/
theorem portAccess_writeReg_idle {off : Nat} {r : Reg} (v : Word) (hb : s.stBusy = false)
    (h4 : off % 4 = 0) (hp : placeAt z off = some (.reg r)) (hwritable : readOnly (.reg r) = false) :
    s.portAccess off 4 (.write v) = { s.writeReg v r with resp := .writeDone } := by
  rw [portAccess_write_idle v hb h4 hp, hwritable]; rfl

/-- A read of the register just written, where the write leaves the block idle. -/
theorem portAccess_writeReg_read {off : Nat} {r : Reg} (v : Word) (hb : s.stBusy = false)
    (h4 : off % 4 = 0) (hp : placeAt z off = some (.reg r)) (hwritable : readOnly (.reg r) = false)
    (hidle : (s.writeReg v r).stBusy = false) :
    ((s.portAccess off 4 (.write v)).portAccess off 4 .read).resp =
      .readData ((s.writeReg v r).readReg r) := by
  rw [portAccess_writeReg_idle v hb h4 hp hwritable,
    portAccess_read_idle (s := { s.writeReg v r with resp := .writeDone }) hidle h4 hp]
  cases r <;> rfl

/-- The low `w` bits of a word with zeros above are the word under ONES(w). -/
theorem setWidth_setWidth_eq_and_ones (v : Word) (w : Nat) :
    (v.setWidth w).setWidth 32 = v &&& ones 32 w :=
  BitVec.eq_of_getLsbD_eq fun i hi => by
    simp only [BitVec.getLsbD_setWidth, BitVec.getLsbD_and, getLsbD_ones, hi, decide_true,
      Bool.true_and, Bool.and_comm]

/-- CFG reads back the three bits it stores. -/
theorem readReg_cfg_writeReg (s : Block z) (v : Word) :
    (s.writeReg v .cfg).readReg .cfg = v &&& ones 32 3 :=
  BitVec.eq_of_getLsbD_eq fun i hi => by
    rw [Block.readReg, getLsbD_ofBits, BitVec.getLsbD_and, getLsbD_ones, decide_eq_true hi]
    match i with
    | 0 | 1 | 2 => simp [Block.writeReg]
    | i + 3 => simp

/-- Settles O56: each register stores its defined bits, and reads back the word under ONES of its width. -/
theorem configurationReadsBackDefinedBits : Obligations.ConfigurationReadsBackDefinedBits := by
  intro z s v hb
  have write : ∀ {off} (r), off % 4 = 0 → placeAt z off = some (.reg r) →
      readOnly (.reg r) = false →
      s.portAccess off 4 (.write v) = { s.writeReg v r with resp := .writeDone } :=
    fun r => portAccess_writeReg_idle v hb
  have low : ∀ {w}, w ≤ 32 → v.extractLsb' 0 w = v.setWidth w :=
    fun hw => (BitVec.setWidth_eq_extractLsb' hw).symm
  rw [low (by decide : 6 ≤ 32), low (by decide : 16 ≤ 32)]
  refine ⟨write .cfg rfl rfl rfl, write .deg rfl rfl rfl, write .poly rfl rfl rfl,
    write .seed rfl rfl rfl, write .glen rfl rfl rfl, write .m rfl rfl rfl, write .n rfl rfl rfl,
    write .k rfl rfl rfl, ?readback⟩
  case readback =>
    have back : ∀ {off w} (r), off % 4 = 0 → placeAt z off = some (.reg r) →
        readOnly (.reg r) = false → (s.writeReg v r).stBusy = false →
        (s.writeReg v r).readReg r = v &&& ones 32 w →
        ((s.portAccess off 4 (.write v)).portAccess off 4 .read).resp =
          .readData (v &&& BitVec.ofNat 32 (2 ^ w - 1)) :=
      fun r h4 hp hw hidle hread =>
        (portAccess_writeReg_read v hb h4 hp hw hidle).trans (congrArg _ hread)
    have full : v = v &&& ones 32 32 := by simpa using setWidth_setWidth_eq_and_ones v 32
    simp only [List.forall_mem_cons]
    exact ⟨back .cfg rfl rfl rfl hb (readReg_cfg_writeReg s v),
      back .deg rfl rfl rfl hb (setWidth_setWidth_eq_and_ones v 6),
      back .poly rfl rfl rfl hb full, back .seed rfl rfl rfl hb full,
      back .glen rfl rfl rfl hb (setWidth_setWidth_eq_and_ones v 16),
      back .m rfl rfl rfl hb (setWidth_setWidth_eq_and_ones v 16),
      back .n rfl rfl rfl hb (setWidth_setWidth_eq_and_ones v 16),
      back .k rfl rfl rfl hb (setWidth_setWidth_eq_and_ones v 16), List.forall_mem_nil _⟩

/-! ### Refused accesses -/

/-- An access of a busy block to a place that does not answer then is refused. -/
theorem portAccess_refused_busy {off size : Nat} {kind : AccessKind} {p : Place} (hb : s.stBusy = true)
    (hp : placeAt z off = some p) (hallowed : allowedWhileBusy kind p = false) :
    s.portAccess off size kind = s.busError kind := by
  rw [Block.portAccess, hp]
  simp [hb, hallowed]

/-- A write of a read-only place is refused, whatever its width and whether the block is busy or not. -/
theorem portAccess_refused_readOnly {off size : Nat} {p : Place} (v : Word)
    (hp : placeAt z off = some p) (hro : readOnly p = true) :
    s.portAccess off size (.write v) = s.busError (.write v) := by
  rw [Block.portAccess, hp]
  simp [hro]

/-- Every place is a register, found by its number, or an array word above the registers. -/
theorem placeAt_cases {off : Nat} {p : Place} (hp : placeAt z off = some p) :
    (∃ r, p = .reg r ∧ regMap[off / 4]? = some r) ∨ (∃ a, p = .array a ∧ 0x054 ≤ off) := by
  rw [placeAt] at hp
  split_ifs at hp with hreg hfit
  · obtain ⟨r, hr, rfl⟩ := Option.map_eq_some_iff.mp hp
    exact .inl ⟨r, rfl, hr⟩
  · obtain ⟨a, -, rfl⟩ := Option.map_eq_some_iff.mp hp
    exact .inr ⟨a, rfl, Nat.not_lt.mp hreg⟩
  · obtain ⟨a, -, rfl⟩ := Option.map_eq_some_iff.mp hp
    exact .inr ⟨a, rfl, Nat.not_lt.mp hreg⟩

/-- A register with a number of `n` or more stands in the list after the first `n`. -/
theorem mem_drop_of_regMap {i n : Nat} {r : Reg} (hr : regMap[i]? = some r) (hn : n ≤ i) :
    r ∈ regMap.drop n := by
  refine List.mem_of_getElem? (i := i - n) ?_
  rw [List.getElem?_drop, Nat.add_sub_cancel' hn, hr]

/-- ID, CTRL and STATUS are the first three registers; no other place answers while BUSY. -/
theorem allowedWhileBusy_eq_false {off : Nat} {p : Place} (kind : AccessKind) (h4 : off % 4 = 0)
    (hoff : off ≠ 0x000 ∧ off ≠ 0x004 ∧ off ≠ 0x008) (hp : placeAt z off = some p) :
    allowedWhileBusy kind p = false := by
  rcases placeAt_cases hp with ⟨r, rfl, hr⟩ | ⟨a, rfl, -⟩
  · have later : ∀ r ∈ regMap.drop 3, r ≠ .id ∧ r ≠ .ctrl ∧ r ≠ .status := by decide
    obtain ⟨hid, hctrl, hstatus⟩ := later r (mem_drop_of_regMap hr (by omega))
    cases kind <;> simp [allowedWhileBusy, hid, hctrl, hstatus]
  · cases kind <;> rfl

/-- The latched registers, from STATE on, are read-only (10_state.md R54). -/
theorem readOnly_of_latched {off : Nat} {p : Place} (hoff : 0x030 ≤ off ∧ off < 0x054)
    (hp : placeAt z off = some p) : readOnly p = true := by
  rcases placeAt_cases hp with ⟨r, rfl, hr⟩ | ⟨a, -, habove⟩
  · have latched : ∀ r ∈ regMap.drop 12, readOnly (.reg r) = true := by decide
    exact latched r (mem_drop_of_regMap hr (by omega))
  · omega

/-- The two readings of a read-only array word agree. -/
theorem readOnly_array {a : ArrayWord} (h : arrayReadOnly a) : readOnly (.array a) = true := by
  cases a with
  | sb => exact absurd h id
  | levels | mask | row => rfl

/-- An access of another width or alignment, in a reserved range, or while BUSY to another register than
ID, CTRL and STATUS or to an array, is refused. -/
theorem portAccess_eq_busError (hz : z.ok) {off size : Nat} (kind : AccessKind)
    (h : size ≠ 4 ∨ off % 4 ≠ 0 ∨ reservedAt z off ∨
      (s.stBusy = true ∧ off ≠ 0x000 ∧ off ≠ 0x004 ∧ off ≠ 0x008)) :
    s.portAccess off size kind = s.busError kind := by
  by_cases h4 : off % 4 = 0
  · rcases h with hsize | hmis | hres | ⟨hb, hoff⟩
    · exact portAccess_refused kind (.inl hsize)
    · exact absurd h4 hmis
    · exact portAccess_refused kind (.inr (.inr (placeAt_reserved hz h4 hres)))
    · cases hp : placeAt z off with
      | none => exact portAccess_refused kind (.inr (.inr hp))
      | some p => exact portAccess_refused_busy hb hp (allowedWhileBusy_eq_false kind h4 hoff hp)
  · exact portAccess_refused kind (.inr (.inl h4))

/-- A write of ID, of a latched register or of a word of a read-only array is refused. -/
theorem portAccess_write_readOnly (hz : z.ok) {off : Nat} (v : Word)
    (h : off = 0x000 ∨ (0x030 ≤ off ∧ off < 0x054) ∨ ∃ a, wordAt z off a ∧ arrayReadOnly a) :
    s.portAccess off 4 (.write v) = s.busError (.write v) := by
  rcases h with rfl | hlatched | ⟨a, hword, hro⟩
  · exact portAccess_refused_readOnly (p := .reg .id) v rfl rfl
  · cases hp : placeAt z off with
    | none => exact portAccess_refused _ (.inr (.inr hp))
    | some p => exact portAccess_refused_readOnly v hp (readOnly_of_latched hlatched hp)
  · exact portAccess_refused_readOnly v (placeAt_of_wordAt hz hword) (readOnly_array hro)

/-! ### The table of the reference configuration -/

/-- The formulas with the reference sizes put in (20_memory.md R87). -/
theorem formulaWord_reference (off : Nat) : formulaWord Params.reference off =
    if 0x400 ≤ off ∧ off < 0x800 then some (.sb ((off - 0x400) / 128) ((off - 0x400) % 128 / 4))
    else if 0x800 ≤ off ∧ off < 0x1000 then some (.levels ((off - 0x800) / 4))
    else if 0x1000 ≤ off ∧ off < 0x1080 then
      some (.mask (decide (64 ≤ off - 0x1000)) ((off - 0x1000) % 64 / 4))
    else if 0x2000 ≤ off ∧ off < 0x2800 then some (.row ((off - 0x2000) / 64) ((off - 0x2000) % 64 / 4))
    else none := rfl

/-- The formulas fit the window in the reference configuration, so they say where the words stand. -/
theorem wordAt_reference {off : Nat} (h4 : off % 4 = 0) (a : ArrayWord) :
    wordAt Params.reference off a ↔ formulaWord Params.reference off = some a := by
  have hfit : Params.reference.formulasFit := by decide
  rw [wordAt, if_pos hfit, formulaWord_iff reference_ok hfit h4]

/-- The reserved ranges of the table of 20_memory.md R87. -/
theorem reservedAt_reference {off : Nat} (hoff : off < 0x4000) (h4 : off % 4 = 0) :
    reservedAt Params.reference off ↔
      (0x054 ≤ off ∧ off < 0x400) ∨ (0x1080 ≤ off ∧ off < 0x2000) ∨ 0x2800 ≤ off := by
  simp only [reservedAt, wordAt_reference h4, ← Option.eq_none_iff_forall_ne_some, formulaWord_reference]
  split_ifs <;> simp <;> omega

/-- The read-only array ranges of the table: MATCHES and MASK, then ROW. -/
theorem readOnlyWord_reference {off : Nat} (h4 : off % 4 = 0) :
    (∃ a, wordAt Params.reference off a ∧ arrayReadOnly a) ↔
      (0x800 ≤ off ∧ off < 0x1080) ∨ (0x2000 ≤ off ∧ off < 0x2800) := by
  simp only [wordAt_reference h4, formulaWord_reference]
  split_ifs <;> simp [arrayReadOnly] <;> omega

/-- Settles O54: what is refused is answered by `Block.busError`, which writes the answer alone; the ranges
of the reference table come from its formulas. -/
theorem refusedAccessChangesNothing : Obligations.RefusedAccessChangesNothing :=
  ⟨fun _ _ _ _ hz _ h =>
      ⟨portAccess_eq_busError hz .read h, fun v => portAccess_eq_busError hz (.write v) h⟩,
    fun _ _ _ v hz h => portAccess_write_readOnly hz v h,
    fun _ => reservedAt_reference, fun _ => readOnlyWord_reference⟩

end Sys2Proof.Machine
end

section
/-! PROOFS. One turn of a step, the window of the port, and what an idle block reads and stores at the
words of its arrays. -/

namespace Sys2Proof.Machine

variable {z : Params} {s : Block z}

/-! ### The turns -/

/-- Settles O15: the listed turn is taken off the list and `takeTurn` says whose it is. -/
theorem stepTakesOneTurn : Obligations.StepTakesOneTurn := by
  intro z
  refine ⟨?access, ?hardReset, ?engine, ?noTurn, ?idle⟩
  case access => exact fun s addr size kind rest hin => step_turn hin
  case hardReset => exact fun s rest hin => step_turn hin
  case engine => exact fun s rest hin => step_turn hin
  case noTurn => exact fun s hin => step_empty hin
  case idle => exact fun s hb => engineTurn_idle hb

/-! ### The window -/

theorem hostAccess_in_window {off : Nat} (size : Nat) (kind : AccessKind) (hoff : off < 0x4000) :
    s.hostAccess (z.base + off) size kind = s.portAccess off size kind := by
  rw [Block.hostAccess, if_pos ⟨Nat.le_add_right _ _, Nat.add_lt_add_left hoff _⟩,
    Nat.add_sub_cancel_left]

theorem hostAccess_outside {addr : Nat} (size : Nat) (kind : AccessKind)
    (hout : addr < z.base ∨ z.base + 0x4000 ≤ addr) :
    s.hostAccess addr size kind = { s with resp := .notDecoded } := by
  rw [Block.hostAccess, if_neg]
  rintro ⟨hlow, hhigh⟩
  exact hout.elim (Nat.not_lt.mpr hlow) (Nat.not_le.mpr hhigh)

/-- Settles O52: inside the window the port answers at the offset, outside it nothing does. -/
theorem onlyTheWindowIsDecoded : Obligations.OnlyTheWindowIsDecoded :=
  fun _ => ⟨fun _ _ size kind => hostAccess_in_window size kind,
    fun _ _ size kind => hostAccess_outside size kind⟩

/-- Settles O53: a read inside the window is a read of the port, which changes the answer alone, and one
outside does not reach the block. -/
theorem readsHaveNoSideEffect : Obligations.ReadsHaveNoSideEffect := by
  intro z s addr size
  rw [Block.hostAccess]
  split
  case isTrue => exact ⟨_, portAccess_read s (addr - z.base) size⟩
  case isFalse => exact ⟨.notDecoded, rfl⟩

/-! ### Where the words stand -/

/-- Where the formulas fit the window, an array word stands at its formula's offset. -/
theorem wordAt_formulaOffset (hfit : z.formulasFit) {a : ArrayWord} (ha : z.hasWord a) :
    wordAt z (formulaOffset z a) a := by
  rw [wordAt, if_pos hfit]
  exact ⟨ha, rfl⟩

/-- In the reference configuration an array word stands at the table's offset, which is its formula's. -/
theorem wordAt_reference_of_eq {off : Nat} {a : ArrayWord} (ha : Params.reference.hasWord a)
    (hoff : off = formulaOffset Params.reference a) : wordAt Params.reference off a :=
  hoff ▸ wordAt_formulaOffset (by decide) ha

/-! ### Packed words -/

/-- The 32 bits of a packed word are the array's. -/
theorem getLsbD_packWord_of_lt (f : Nat → Bool) (w : Nat) {t : Nat} (ht : t < 32) :
    (packWord f w).getLsbD t = f (32 * w + t) := by
  rw [getLsbD_packWord, decide_eq_true ht, Bool.true_and]

/-- A port word whose bits are those of array word `w` is that word as packed. -/
theorem packWord_eq {f : Nat → Bool} {w : Nat} {v : Word}
    (h : ∀ t, t < 32 → f (32 * w + t) = v.getLsbD t) : packWord f w = v :=
  BitVec.eq_of_getLsbD_eq fun t ht => (getLsbD_packWord_of_lt f w ht).trans (h t ht)

/-- A word of an array that packs the bits of `f` reads 32 of them. -/
theorem portAccess_read_packed (hz : z.ok) {off w : Nat} {a : ArrayWord} {f : Nat → Bool}
    (hb : s.stBusy = false) (h : wordAt z off a) (ha : s.readPlace (.array a) = packWord f w) :
    ∃ v : Word, s.portAccess off 4 .read = { s with resp := .readData v } ∧
      ∀ t, t < 32 → v.getLsbD t = f (32 * w + t) :=
  ⟨_, portAccess_read_word hz hb h, fun t ht => by rw [ha, getLsbD_packWord_of_lt f w ht]⟩

/-! ### The words of a sequence buffer -/

/-- A write of a buffer word that exists sets its 32 bits and no other: it ends within the buffer. -/
theorem sbBit_writeBits_word {b w : Nat} (v : Word) (hword : z.hasWord (.sb b w)) (b' i : Nat) :
    (writeBits v b (32 * w) 0 32 s).sbBit b' i =
      if b' = b ∧ 32 * w ≤ i ∧ i < 32 * w + 32 then v.getLsbD (i - 32 * w) else s.sbBit b' i := by
  obtain ⟨hb, hw⟩ := hword
  rw [sbBit_writeBits, Nat.zero_add]
  exact if_congr (by omega) rfl rfl

/-- The buffer word just written, packed again. -/
theorem packWord_writeBits {b w : Nat} (v : Word) (hword : z.hasWord (.sb b w)) :
    packWord ((writeBits v b (32 * w) 0 32 s).sbBit b) w = v :=
  packWord_eq fun t ht => by
    rw [sbBit_writeBits_word v hword, if_pos (by omega), Nat.add_sub_cancel_left]

/-- The port's answer added to a change of SB alone. -/
theorem withResp_of_sb_frame {t : Block z} (r : PortResponse) (h : t = { s with sb := t.sb }) :
    { t with resp := r } = { s with sb := t.sb, resp := r } := by
  rw [h]

/-- Settles O57: a write changes the word's bits alone, so a read after it packs the value written; the
formulas and the table say where the words stand. -/
theorem bufferWordsReadBack : Obligations.BufferWordsReadBack := by
  refine ⟨?words, fun z b w hfit hb hw => wordAt_formulaOffset (a := .sb b w) hfit ⟨hb, hw⟩, ?table⟩
  case words =>
    intro z s off b w v hz hb h
    obtain ⟨-, -, -, hword⟩ := wordAt_offset hz h
    have written := portAccess_write_sb hz v hb h
    have frame := writeBits_frame v b 32 (32 * w) 0 s
    have bits := sbBit_writeBits_word (s := s) v hword
    have back := packWord_writeBits (s := s) v hword
    generalize writeBits v b (32 * w) 0 32 s = t at written frame bits back
    have idle : t.stBusy = false := by rw [frame]; exact hb
    refine ⟨portAccess_read_packed hz hb h rfl,
      _, written, withResp_of_sb_frame _ frame, bits, ?readback⟩
    rw [portAccess_read_word (s := { t with resp := .writeDone }) hz idle h]
    exact congrArg (fun u => { t with resp := .readData u }) back
  case table =>
    intro b w hb hw
    refine wordAt_reference_of_eq ⟨hb, hw⟩ ?_
    change 0x400 + 0x80 * b + 4 * w = 0x400 + b * 0x80 + 4 * w
    omega

/-! ### What an idle block reads -/

/-- AFLAGS holds ASO at bit 0 and AINS at bit 1 (10_state.md R49). -/
theorem getLsbD_readReg_aflags (s : Block z) (i : Nat) :
    (s.readReg .aflags).getLsbD i = if i = 0 then s.aso else if i = 1 then s.ains else false := by
  rw [Block.readReg, getLsbD_ofBits]
  match i with
  | 0 | 1 => simp
  | i + 2 => simp

/-- Settles O58: the registers read by the list of the map, the array words as they are packed, and both
readings of the map agree on where these stand. -/
theorem idleReadsReturnTheState : Obligations.IdleReadsReturnTheState := by
  refine ⟨?registers, ?words, ?readOnly, ?formulas, ?maskTable, ?rowTable, ?levelTable⟩
  case registers =>
    intro z s hb
    have read : ∀ {off} (r), off % 4 = 0 → placeAt z off = some (.reg r) →
        s.portAccess off 4 .read = { s with resp := .readData (s.readReg r) } :=
      fun r => portAccess_read_idle (p := .reg r) hb
    exact ⟨read .cmd rfl rfl, read .state rfl rfl, read .adeg rfl rfl, read .apoly rfl rfl,
      read .am rfl rfl, read .ak rfl rfl, ⟨_, read .aflags rfl rfl, getLsbD_readReg_aflags s⟩,
      read .pos rfl rfl, read .lastLvl rfl rfl, read .minLvl rfl rfl⟩
  case words =>
    intro z s off hz hb
    exact ⟨fun c w h => portAccess_read_packed hz hb h rfl,
      fun k w h => portAccess_read_packed hz hb h rfl,
      fun q h => ⟨_, portAccess_read_word hz hb h, extractLsb'_packHalves _ _⟩⟩
  case readOnly =>
    exact fun z s off a v hz h hro => portAccess_write_readOnly hz v (.inr (.inr ⟨a, h, hro⟩))
  case formulas =>
    exact fun z hfit => ⟨fun c w hw => wordAt_formulaOffset (a := .mask c w) hfit hw,
      fun k w hk hw => wordAt_formulaOffset (a := .row k w) hfit ⟨hk, hw⟩,
      fun q hq => wordAt_formulaOffset (a := .levels q) hfit hq⟩
  case maskTable => exact fun c w hw => wordAt_reference_of_eq hw rfl
  case rowTable =>
    intro k w hk hw
    refine wordAt_reference_of_eq ⟨Nat.le_of_lt_succ hk, hw⟩ ?_
    change 0x2000 + 0x40 * k + 4 * w = 0x2000 + k * 0x40 + 4 * w
    omega
  case levelTable => exact fun q hq => wordAt_reference_of_eq hq rfl

end Sys2Proof.Machine
end

section
/-! PROOFS. The decoder and the encoder against the table of 30_encoding.md R113: what each answers, said
once, and that they invert each other. -/

namespace Sys2Proof

open Laws

/-! ### The fields of a word -/

theorem fieldOpc_and (v w : Word) : fieldOpc (v &&& w) = fieldOpc v &&& fieldOpc w :=
  BitVec.extractLsb'_and

theorem fieldBuf_or (v w : Word) (f : BufField) : fieldBuf (v ||| w) f = fieldBuf v f ||| fieldBuf w f :=
  BitVec.extractLsb'_or

theorem fieldSym_or (v w : Word) : fieldSym (v ||| w) = (fieldSym v || fieldSym w) :=
  BitVec.getLsbD_or

/-- A placed buffer operand stands in its own field and sets no bit of another. -/
theorem fieldBuf_placeBuf (f g : BufField) (b : BufIx) :
    fieldBuf (placeBuf f b) g = if g = f then b else 0 := by
  revert b; cases f <;> cases g <;> decide

theorem fieldSym_placeBuf (f : BufField) (b : BufIx) : fieldSym (placeBuf f b) = false := by
  revert b; cases f <;> decide

theorem fieldBuf_placeSym (f : BufField) (s : Bool) : fieldBuf (placeSym s) f = 0 := by
  revert s; cases f <;> decide

theorem fieldSym_placeSym (s : Bool) : fieldSym (placeSym s) = s := by
  revert s; decide

/-- Taking a buffer field out and placing it again keeps the bits of that field. -/
theorem placeBuf_fieldBuf (f : BufField) (w : Word) :
    placeBuf f (fieldBuf w f) = w &&& placeBuf f (BitVec.allOnes 4) := by
  refine BitVec.eq_of_getLsbD_eq fun i hi => ?_
  simp only [placeBuf, fieldBuf, BitVec.getLsbD_shiftLeft, BitVec.getLsbD_setWidth,
    BitVec.getLsbD_extractLsb', BitVec.getLsbD_and, BitVec.getLsbD_allOnes]
  by_cases h : i < bufFieldLsb f
  · simp [h]
  · rw [Nat.add_sub_of_le (Nat.le_of_not_lt h), Bool.and_comm (w.getLsbD i)]
    simp only [Bool.and_assoc]

theorem placeSym_fieldSym (w : Word) : placeSym (fieldSym w) = w &&& placeSym true := by
  have hplace : ∀ s : Bool, placeSym s = (BitVec.ofBool s).setWidth 32 := by decide
  rw [hplace]
  exact BitVec.and_one_eq_setWidth_ofBool_getLsbD.symm

/-! ### The rows of the table -/

/-- The bits of a command's word that hold its operands (30_encoding.md R119). -/
def operandBits : Instr → Word
  | .nop | .lload | .lstep => 0
  | .lgen d => placeBuf .d d
  | .lgens d s => placeBuf .d d ||| placeSym s
  | .enc d a b c => placeBuf .d d ||| placeBuf .a a ||| placeBuf .b b ||| placeBuf .c c
  | .minit a => placeBuf .a a
  | .mstep c => placeSym c
  | .matchText a b => placeBuf .a a ||| placeBuf .b b

/-- The bits of a word that an opcode reads operands from: its used fields, each in full, and IMM[0] where
it takes a symbol (30_encoding.md R112). -/
def operandMask : Opcode → Word
  | .nop | .lload | .lstep => 0
  | .lgen => placeBuf .d (BitVec.allOnes 4)
  | .lgens => placeBuf .d (BitVec.allOnes 4) ||| placeSym true
  | .enc =>
    placeBuf .d (BitVec.allOnes 4) ||| placeBuf .a (BitVec.allOnes 4) |||
      placeBuf .b (BitVec.allOnes 4) ||| placeBuf .c (BitVec.allOnes 4)
  | .minit => placeBuf .a (BitVec.allOnes 4)
  | .mstep => placeSym true
  | .matchText => placeBuf .a (BitVec.allOnes 4) ||| placeBuf .b (BitVec.allOnes 4)

theorem encode_eq_rowMatch_or (i : Instr) : encode i = rowMatch (opcodeOf i) ||| operandBits i := by
  cases i with
  | nop | lload | lstep | lgen | minit | mstep => rfl
  | lgens | matchText => exact BitVec.or_assoc ..
  | enc => simp [encode, rowMatch, opcodeOf, operandBits, BitVec.or_assoc]

@[simp] theorem opcodeOf_instrOf (op : Opcode) (w : Word) : opcodeOf (instrOf op w) = op := by
  cases op <;> rfl

theorem operandBits_instrOf (op : Opcode) (w : Word) :
    operandBits (instrOf op w) = w &&& operandMask op := by
  cases op <;> simp [operandBits, instrOf, operandMask, placeBuf_fieldBuf, placeSym_fieldSym,
    BitVec.and_or_distrib_left]

/-- No bit of a word escapes both the check on MASK and the operands. -/
theorem rowMask_or_operandMask (op : Opcode) : rowMask op ||| operandMask op = BitVec.allOnes 32 := by
  cases op <;> decide

/-- A word that passes the check on MASK is the encoding of the command it stands for. -/
theorem encode_instrOf {op : Opcode} {w : Word} (h : w &&& rowMask op = rowMatch op) :
    encode (instrOf op w) = w :=
  calc encode (instrOf op w)
      = (w &&& rowMask op) ||| (w &&& operandMask op) := by
        rw [encode_eq_rowMatch_or, opcodeOf_instrOf, operandBits_instrOf, h]
    _ = w &&& (rowMask op ||| operandMask op) := BitVec.and_or_distrib_left.symm
    _ = w := by rw [rowMask_or_operandMask, BitVec.and_allOnes]

theorem fieldBuf_rowMatch (op : Opcode) (f : BufField) : fieldBuf (rowMatch op) f = 0 := by
  cases op <;> cases f <;> decide

theorem fieldSym_rowMatch (op : Opcode) : fieldSym (rowMatch op) = false := by
  cases op <;> decide

theorem instrOf_rowMatch_or (op op' : Opcode) (w : Word) :
    instrOf op (rowMatch op' ||| w) = instrOf op w := by
  cases op <;> simp [instrOf, fieldBuf_or, fieldSym_or, fieldBuf_rowMatch, fieldSym_rowMatch]

/-- The fields of a command's word are its operands. -/
theorem instrOf_encode (i : Instr) : instrOf (opcodeOf i) (encode i) = i := by
  rw [encode_eq_rowMatch_or, instrOf_rowMatch_or]
  cases i <;> simp [instrOf, opcodeOf, operandBits, fieldBuf_or, fieldSym_or, fieldBuf_placeBuf,
    fieldSym_placeBuf, fieldBuf_placeSym, fieldSym_placeSym]

/-- The check on the used buffer fields of a word is well-formedness of the command it stands for. -/
theorem wellFormed_instrOf (nbuf : Nat) (op : Opcode) (w : Word) :
    (instrOf op w).wellFormed nbuf = (rowUsed op).all fun f => bufOk nbuf (fieldBuf w f) := by
  cases op <;> simp [instrOf, Instr.wellFormed, rowUsed, Bool.and_assoc]

/-- The word of a well-formed command passes its own row's check on MASK. -/
theorem encode_and_rowMask {nbuf : Nat} {i : Instr} (hn : nbuf ≤ 8) (hw : i.wellFormed nbuf = true) :
    encode i &&& rowMask (opcodeOf i) = rowMatch (opcodeOf i) := by
  have own : EncodedInOwnRow.Statement i := by
    cases i with
    | nop => exact EncodedInOwnRow.nop
    | lload => exact EncodedInOwnRow.lload
    | lstep => exact EncodedInOwnRow.lstep
    | lgen d => exact EncodedInOwnRow.lgen d
    | lgens d sym => exact EncodedInOwnRow.lgens d sym
    | enc d a b c => exact EncodedInOwnRow.enc d a b c
    | minit a => exact EncodedInOwnRow.minit a
    | mstep c => exact EncodedInOwnRow.mstep c
    | matchText a b => exact EncodedInOwnRow.matchText a b
  exact (own nbuf hn hw _).mpr rfl

/-! ### The opcode map -/

/-- No opcode is listed twice, so the first entry found is the only one. -/
theorem lookup_of_mem_opcodeMap {b : BitVec 8} {op : Opcode} (h : (b, op) ∈ opcodeMap) :
    opcodeMap.lookup b = some op := by
  have found : ∀ e ∈ opcodeMap, opcodeMap.lookup e.1 = some e.2 := by decide
  exact found (b, op) h

theorem mem_opcodeMap_of_lookup {b : BitVec 8} {op : Opcode} (h : opcodeMap.lookup b = some op) :
    (b, op) ∈ opcodeMap := by
  obtain ⟨l, r, hlr, -⟩ := List.lookup_eq_some_iff.mp h
  simp [hlr]

/-- The check on MASK covers OPC: a word that passes it has the opcode of its row. -/
theorem fieldOpc_mem_opcodeMap {op : Opcode} {w : Word} (h : w &&& rowMask op = rowMatch op) :
    (fieldOpc w, op) ∈ opcodeMap := by
  have hmask : fieldOpc (rowMask op) = BitVec.allOnes 8 := by cases op <;> decide
  have hopc : fieldOpc w = fieldOpc (rowMatch op) := by
    rw [← h, fieldOpc_and, hmask, BitVec.and_allOnes]
  rw [hopc]
  cases op <;> decide

/-! ### What the decoder answers -/

theorem decode_of_unlisted {w : Word} (nbuf : Nat) (h : ∀ op, (fieldOpc w, op) ∉ opcodeMap) :
    decode nbuf w = .error .illegalOpcode := by
  have hnone : opcodeMap.lookup (fieldOpc w) = none :=
    Option.eq_none_iff_forall_ne_some.mpr fun op hop => h op (mem_opcodeMap_of_lookup hop)
  rw [decode, hnone]

theorem decode_of_listed {w : Word} {op : Opcode} (nbuf : Nat) (h : (fieldOpc w, op) ∈ opcodeMap) :
    decode nbuf w =
      if w &&& rowMask op = rowMatch op ∧ (instrOf op w).wellFormed nbuf = true then .ok (instrOf op w)
      else .error .illegalField := by
  rw [decode, lookup_of_mem_opcodeMap h, wellFormed_instrOf]
  by_cases hmask : w &&& rowMask op = rowMatch op <;> simp [hmask]

/-- The words that decode to a command: those that pass its row's check on MASK, and it is well formed. -/
theorem decode_eq_ok_iff {nbuf : Nat} {w : Word} {i : Instr} :
    decode nbuf w = .ok i ↔
      ∃ op, w &&& rowMask op = rowMatch op ∧ instrOf op w = i ∧ i.wellFormed nbuf = true := by
  constructor
  · intro h
    by_cases hlisted : ∃ op, (fieldOpc w, op) ∈ opcodeMap
    · obtain ⟨op, hop⟩ := hlisted
      rw [decode_of_listed nbuf hop] at h
      split at h
      next hlegal =>
        obtain ⟨hmask, hw⟩ := hlegal
        cases h
        exact ⟨op, hmask, rfl, hw⟩
      next => cases h
    · rw [decode_of_unlisted nbuf (not_exists.mp hlisted)] at h
      cases h
  · rintro ⟨op, hmask, rfl, hw⟩
    rw [decode_of_listed nbuf (fieldOpc_mem_opcodeMap hmask), if_pos ⟨hmask, hw⟩]

/-! ### The round trips -/

/-- Settles O1: the word of a well-formed command passes the check of its own row, and its fields are the
operands. -/
theorem decodeInvertsEncode : Obligations.DecodeInvertsEncode := fun _ i hn hw =>
  decode_eq_ok_iff.mpr ⟨opcodeOf i, encode_and_rowMask hn hw, instrOf_encode i, hw⟩

/-- Settles O2: MASK and the operand bits of a row cover the word. -/
theorem encodeInvertsDecode : Obligations.EncodeInvertsDecode := by
  intro nbuf w i h
  obtain ⟨op, hmask, rfl, hw⟩ := decode_eq_ok_iff.mp h
  exact ⟨hw, encode_instrOf hmask⟩

/-- Settles O3: each of the nine words is the encoding of its command, which is well formed. -/
theorem sampleWordsDecode : Obligations.SampleWordsDecode := by
  have sample : ∀ {w : Word} (i : Instr), encode i = w → i.wellFormed 8 = true → decode 8 w = .ok i :=
    fun i hw hi => hw ▸ decodeInvertsEncode 8 i (Nat.le_refl 8) hi
  exact ⟨sample .nop rfl rfl, sample .lload rfl rfl, sample .lstep rfl rfl,
    sample (.lgen 7) rfl rfl, sample (.lgens 5 true) rfl rfl, sample (.enc 7 6 5 4) rfl rfl,
    sample (.minit 7) rfl rfl, sample (.mstep true) rfl rfl, sample (.matchText 1 3) rfl rfl⟩

end Sys2Proof
end

section
/-! PROOFS. Commands that end before they execute: words that do not decode, and the model's second check of
the buffer fields. -/

namespace Sys2Proof.Machine

variable {z : Params} {s : Block z}

/-! ### Words that do not decode -/

/-- The engine records the decoder's error and ends the command (40_control.md R141, R143). -/
theorem engineTurn_of_decode_error {e : CmdErr} (busy : s.stBusy = true)
    (h : decode z.nbuf s.cmdLatch = .error e) :
    engineTurn ⟨z, s⟩ =
      .next ⟨z, { s with stErr := true, errcode := errCode e, stBusy := false, stDone := true }⟩ := by
  rw [engineTurn_busy busy, complete, h]
  rfl

/-- Settles O4: the nine values are the keys of the opcode map. -/
theorem illegalOpcodeEndsTheCommand : Obligations.IllegalOpcodeEndsTheCommand := by
  intro z s busy hopc
  have herr : decode z.nbuf s.cmdLatch = .error .illegalOpcode :=
    decode_of_unlisted z.nbuf fun op hop => hopc (List.mem_map_of_mem (f := fun e => e.1.toNat) hop)
  exact ⟨herr, engineTurn_of_decode_error busy herr⟩

/-- Settles O5: a word with a bad field fails the check on MASK or stands for a command that is not well
formed. -/
theorem illegalFieldEndsTheCommand : Obligations.IllegalFieldEndsTheCommand := by
  intro z s op busy hopc hbad
  have herr : decode z.nbuf s.cmdLatch = .error .illegalField := by
    rw [decode_of_listed z.nbuf hopc, if_neg]
    rintro ⟨hmask, hw⟩
    rw [wellFormed_instrOf, List.all_eq_true] at hw
    rcases hbad with hbad | ⟨f, hf, hout⟩
    · exact hbad hmask
    · exact Nat.not_lt.mpr hout ((bufOk_iff _).mp (hw f hf))
  exact ⟨herr, engineTurn_of_decode_error busy herr⟩

/-! ### The second check of the buffer fields -/

/-- The buffer operands of a command, in the order its check takes them (30_encoding.md R112). -/
def bufOperands : Instr → List BufIx
  | .nop | .lload | .lstep | .mstep _ => []
  | .lgen d | .lgens d _ => [d]
  | .enc d a b c => [d, a, b, c]
  | .minit a => [a]
  | .matchText a b => [a, b]

theorem wellFormed_eq_all_bufOperands (nbuf : Nat) (i : Instr) :
    i.wellFormed nbuf = (bufOperands i).all (bufOk nbuf) := by
  cases i <;> simp [Instr.wellFormed, bufOperands, Bool.and_assoc]

/-- A list of checks that begins with the buffer fields reports them first. -/
theorem checked_of_field_out_of_range {bs : List BufIx} (h : bs.all (bufOk z.nbuf) = false)
    (cs : List (Bool × CmdErr)) (f : Block z → Block z) (s : Block z) :
    checked (fieldCheck z bs :: cs) f s = s.withError 0x02 :=
  checked_of_some (e := .illegalField) (by simp [fieldCheck, h])

/-- A command with buffer operands checks these before anything else (60_exceptions.md R253). -/
theorem exec_checks_fields_first {i : Instr} (h : bufOperands i ≠ []) (s : Block z) :
    ∃ cs f, exec i ⟨z, s⟩ = .next ⟨z, checked (fieldCheck z (bufOperands i) :: cs) f s⟩ := by
  cases i with
  | nop | lload | lstep | mstep => exact absurd rfl h
  | lgen | lgens | enc | minit | matchText => exact ⟨_, _, rfl⟩

/-- Settles O23: a command that is not well formed has buffer operands, and the first check fails. -/
theorem bufferFieldOutOfRangeFails : Obligations.BufferFieldOutOfRangeFails := by
  intro z i s h
  rw [wellFormed_eq_all_bufOperands] at h
  have used : bufOperands i ≠ [] := by
    intro hnil
    simp [hnil] at h
  obtain ⟨cs, f, hexec⟩ := exec_checks_fields_first used s
  rw [hexec, checked_of_field_out_of_range h]

end Sys2Proof.Machine
end

section
/-! PROOFS. The control of the block: the issue and the completion of a command, NOP, what a turn does to
the list of turns, and the outcome bits. -/

namespace Sys2Proof.Machine

variable {z : Params} {s t : Block z}

/-! ### Issue and completion -/

/-- Settles O18: CMD is a writable register whose write is the issue, and no access to it proceeds while
BUSY. -/
theorem writeToCmdIssues : Obligations.WriteToCmdIssues := by
  intro z s v
  refine ⟨?idle, ?busy⟩
  case idle => exact fun idle => portAccess_writeReg_idle (r := .cmd) v idle rfl rfl rfl
  case busy => exact fun busy => portAccess_refused_busy (p := .reg .cmd) busy rfl rfl

/-- Settles O22: NOP has no check that could fail, and its effect is the identity. -/
theorem nopChangesNothing : Obligations.NopChangesNothing := fun _ s => exec_nop s

/-- The engine's turn on a busy block whose word decodes executes the command and finishes it. -/
theorem engineTurn_of_decode_ok {i : Instr} (busy : s.stBusy = true)
    (hdecode : decode z.nbuf s.cmdLatch = .ok i) (hexec : exec i ⟨z, s⟩ = .next ⟨z, t⟩) :
    engineTurn ⟨z, s⟩ = .next ⟨z, t.finish⟩ := by
  rw [engineTurn_busy busy, complete, hdecode]
  simp only [hexec, onBlock_mk]

/-- Settles O14: in each clause the turn is the engine's, with the word latched and BUSY set. -/
theorem stepRunsTheDecodedCommand : Obligations.StepRunsTheDecodedCommand := by
  intro z
  refine ⟨?noTurn, ?listed, ?placed⟩
  case noTurn =>
    intro s t i busy hin hdecode hexec
    rw [step_empty hin]
    exact engineTurn_of_decode_ok busy hdecode hexec
  case listed =>
    intro s t i rest busy hin hdecode hexec
    rw [step_turn hin]
    exact engineTurn_of_decode_ok (s := { s with inbox := rest }) busy hdecode hexec
  case placed =>
    intro s t nbits w i hdecode hexec
    exact engineTurn_of_decode_ok (s := s.issue (tableWord nbits w)) rfl hdecode hexec

/-! ### The turns that are over -/

/-- Everything a host access can do: answer only, or write one place. -/
theorem hostAccess_cases (s : Block z) (addr size : Nat) (kind : AccessKind) :
    (∃ r, s.hostAccess addr size kind = { s with resp := r }) ∨
    ∃ v p, s.hostAccess addr size kind = { s.writePlace v p with resp := .writeDone } := by
  rw [Block.hostAccess]
  split
  case isFalse => exact .inl ⟨_, rfl⟩
  case isTrue =>
    cases kind with
    | read => exact .inl ⟨_, portAccess_read s _ size⟩
    | write v =>
      rcases portAccess_write s (addr - z.base) size v with h | ⟨p, -, -, -, -, -, h⟩
      · exact .inl ⟨_, h⟩
      · exact .inr ⟨v, p, h⟩

/-- No write of the host, not even a soft reset, changes the turns to come. -/
theorem writePlace_inbox (s : Block z) (v : Word) (p : Place) : (s.writePlace v p).inbox = s.inbox := by
  rcases writePlace_cases s v p with
    h | ⟨-, h⟩ | ⟨-, -, h⟩ | ⟨-, -, h⟩ | ⟨-, h⟩ | ⟨b, w, -, h⟩ | ⟨r, -, -, -, h⟩
  case inr.inl => rw [h, Block.issue_inbox]
  case inr.inr.inl => rw [h, softReset_frame]
  case inr.inr.inr.inr.inl => rw [h, Block.writeStatus_inbox]
  all_goals rw [h]

theorem hostAccess_inbox (s : Block z) (addr size : Nat) (kind : AccessKind) :
    (s.hostAccess addr size kind).inbox = s.inbox := by
  rcases hostAccess_cases s addr size kind with ⟨r, h⟩ | ⟨v, p, h⟩
  · rw [h]
  · rw [h]; exact writePlace_inbox s v p

theorem Executes.inbox {i : Instr} (h : Executes s i t) : t.inbox = s.inbox :=
  calc t.inbox = t.configPart.inbox := rfl
    _ = s.configPart.inbox := by rw [h.configPart]
    _ = s.inbox := rfl

/-- The engine's turn always leaves the block idle and the turns to come as they are. -/
theorem engineTurn_answers (s : Block z) :
    ∃ u : Block z, engineTurn ⟨z, s⟩ = .next ⟨z, u⟩ ∧ u.stBusy = false ∧ u.inbox = s.inbox := by
  cases busy : s.stBusy with
  | false => exact ⟨s, engineTurn_idle busy, busy, rfl⟩
  | true =>
    cases hdecode : decode z.nbuf s.cmdLatch with
    | error e => exact ⟨_, engineTurn_of_decode_error busy hdecode, rfl, rfl⟩
    | ok i =>
      obtain ⟨u, hexec⟩ := exec_answers i s
      exact ⟨u.finish, engineTurn_of_decode_ok busy hdecode hexec, rfl, (executes_of_exec hexec).inbox⟩

/-- Every turn is answered by a next state; no turn adds one to the list or takes one off it. -/
theorem takeTurn_answers (turn : Turn) (s : Block z) :
    ∃ u : Block z, takeTurn turn ⟨z, s⟩ = .next ⟨z, u⟩ ∧ u.inbox = s.inbox := by
  cases turn with
  | access addr size kind => exact ⟨_, rfl, hostAccess_inbox s addr size kind⟩
  | engine =>
    obtain ⟨u, hu, -, hin⟩ := engineTurn_answers s
    exact ⟨u, hu, hin⟩
  | hardReset => exact ⟨_, rfl, rfl⟩

/-- The turns listed are taken one a step, and the engine moves after the last of them. -/
theorem run_idle_of_inbox_eq (turns : List Turn) : ∀ s : Block z, s.inbox = turns →
    ∃ t : State, Host.Core.run core (turns.length + 1) ⟨z, s⟩ = .next t ∧ t.block.stBusy = false := by
  induction turns with
  | nil =>
    intro s hin
    obtain ⟨u, hu, idle, -⟩ := engineTurn_answers s
    have hstep : core.step ⟨z, s⟩ = .next ⟨z, u⟩ := (step_empty hin).trans hu
    exact ⟨⟨z, u⟩, by simp only [List.length_nil, Host.Core.run, hstep], idle⟩
  | cons turn rest ih =>
    intro s hin
    obtain ⟨u, hu, hrest⟩ := takeTurn_answers turn { s with inbox := rest }
    have hstep : core.step ⟨z, s⟩ = .next ⟨z, u⟩ := (step_turn hin).trans hu
    obtain ⟨t, hrun, idle⟩ := ih u hrest
    exact ⟨t, by simpa only [List.length_cons, Host.Core.run, hstep] using hrun, idle⟩

/-- Settles O17, by induction on the list of turns. -/
theorem theBlockIsIdleOnceTheTurnsAreOver : Obligations.TheBlockIsIdleOnceTheTurnsAreOver :=
  fun s => run_idle_of_inbox_eq s.block.inbox s.block rfl

/-! ### The outcome bits -/

/-- The part of `Block.outcomeOk` that holds inside a completion too, where an error is recorded while
BUSY = 1: ERR says that there is an error code, and the code is one of R250. -/
def Block.errorOk (s : Block z) : Prop :=
  (s.stErr = true ↔ s.errcode ≠ 0) ∧ s.errcode.toNat ≤ 0x0A

theorem outcomeOk_iff :
    s.outcomeOk ↔ (s.stBusy = true → s.stDone = false ∧ s.stErr = false) ∧ s.errorOk := Iff.rfl

/-- Every code of the table of 60_exceptions.md R250 is one of 0x01..0x0A. -/
theorem errCode_range (e : CmdErr) : errCode e ≠ 0 ∧ (errCode e).toNat ≤ 0x0A := by
  cases e <;> decide

theorem errorOk_cmdError (s : Block z) (e : CmdErr) : (s.cmdError e).errorOk :=
  have ⟨hne, hle⟩ := errCode_range e
  ⟨iff_of_true rfl hne, hle⟩

/-- Every way a command ends: with a command error, or with ERR and ERRCODE as they were. -/
theorem Executes.error_cases {i : Instr} (h : Executes s i t) :
    (∃ (r : Block z) (e : CmdErr), t = r.cmdError e) ∨ (t.stErr = s.stErr ∧ t.errcode = s.errcode) := by
  cases h with
  | error e => exact .inl ⟨s, e, rfl⟩
  | nop | lload | lstep | minit | mstep => exact .inr ⟨rfl, rfl⟩
  | lgen => rw [lfsrRecord_frame]; exact .inr ⟨rfl, rfl⟩
  | enc => rw [encLoop_frame]; exact .inr ⟨rfl, rfl⟩
  | matchText => rw [matchLoop_frame]; exact .inr ⟨rfl, rfl⟩
  | @lgens d sym =>
    obtain ⟨r, hr, hfound | hexhausted⟩ := lgensEffect_cases d sym s
    · rw [hfound, lfsrRecord_frame, hr, lfsrSkip_frame]; exact .inr ⟨rfl, rfl⟩
    · exact .inl ⟨r, .skipExhausted, hexhausted⟩

theorem Executes.errorOk {i : Instr} (h : Executes s i t) (hs : s.errorOk) : t.errorOk := by
  rcases h.error_cases with ⟨r, e, rfl⟩ | ⟨herr, hcode⟩
  · exact errorOk_cmdError r e
  · rwa [Block.errorOk, herr, hcode]

/-- Completion clears BUSY, so only the error bits have to agree. -/
theorem outcomeOk_finish (hs : s.errorOk) : s.finish.outcomeOk :=
  outcomeOk_iff.mpr ⟨fun busy => absurd busy Bool.false_ne_true, hs⟩

theorem outcomeOk_issue (s : Block z) (v : Word) : (s.issue v).outcomeOk :=
  ⟨fun _ => ⟨rfl, rfl⟩, iff_of_false Bool.false_ne_true (not_not_intro rfl), Nat.zero_le _⟩

theorem outcomeOk_softReset (s : Block z) : s.softReset.outcomeOk := by
  rw [softReset_frame]
  exact Block.outcomeOk_of_idle_of_no_error rfl rfl rfl

/-- W1C clears ERR and ERRCODE together, and only clears DONE (10_state.md R34). -/
theorem outcomeOk_writeStatus (v : Word) (hs : s.outcomeOk) : (s.writeStatus v).outcomeOk := by
  obtain ⟨hbusy, herr, hcode⟩ := hs
  refine ⟨fun busy => ?_, ?_⟩
  · obtain ⟨hdone, hnoerr⟩ := hbusy busy
    simp [hdone, hnoerr]
  · rw [Block.writeStatus_stErr, Block.writeStatus_errcode]
    cases v.getLsbD 2
    · simpa using ⟨herr, hcode⟩
    · simp

theorem outcomeOk_writePlace (v : Word) (p : Place) (hs : s.outcomeOk) :
    (s.writePlace v p).outcomeOk := by
  rcases writePlace_cases s v p with
    h | ⟨-, h⟩ | ⟨-, -, h⟩ | ⟨-, -, h⟩ | ⟨-, h⟩ | ⟨b, w, -, h⟩ | ⟨r, -, -, -, h⟩
  case inr.inl => rw [h]; exact outcomeOk_issue s v
  case inr.inr.inl => rw [h]; exact outcomeOk_softReset s
  case inr.inr.inr.inr.inl => rw [h]; exact outcomeOk_writeStatus v hs
  all_goals rw [h]; exact hs

theorem outcomeOk_hostAccess (addr size : Nat) (kind : AccessKind) (hs : s.outcomeOk) :
    (s.hostAccess addr size kind).outcomeOk := by
  rcases hostAccess_cases s addr size kind with ⟨r, h⟩ | ⟨v, p, h⟩
  · rw [h]; exact hs
  · rw [h]; exact outcomeOk_writePlace v p hs

/-- Settles O12: a completion keeps the error bits in agreement and clears BUSY, an idle engine changes
none of these bits, a host write clears them together or issues, and a reset clears them all. -/
theorem stepKeepsOutcomeConsistent : Obligations.StepKeepsOutcomeConsistent := by
  rintro ⟨z, s⟩ t ⟨hz, hs⟩ h
  obtain ⟨u, rfl, ⟨-, hc⟩ | ⟨-, rfl⟩ | ⟨addr, size, kind, rfl⟩ | rfl⟩ := step_next h
  case inl =>
    obtain ⟨i, v, hv, rfl⟩ := complete_executes hc
    exact ⟨hz, outcomeOk_finish (hv.errorOk (outcomeOk_iff.mp hs).2)⟩
  case inr.inl => exact ⟨hz, hs⟩
  case inr.inr.inl => exact ⟨hz, outcomeOk_hostAccess addr size kind hs⟩
  case inr.inr.inr => exact ⟨hz, Block.outcomeOk_of_idle_of_no_error rfl rfl rfl⟩

end Sys2Proof.Machine
end

section
/-! PROOFS. The LFSR unit's operations on a legal configuration: the windowed shift, one step, the load and
what a generation records. The statements about its commands are derived from these. -/

namespace Sys2Proof.Machine

variable {z : Params} {s : Block z}

/-! ### The windowed shift and the parity -/

/-- Bit i after `t` windowed shifts of a value inside the window is the old bit i - t. -/
theorem getLsbD_shlW_iterate {len w : Nat} {v : BitVec len} (hv : v.toNat < 2 ^ w) (t i : Nat) :
    ((shlW w)^[t] v).getLsbD i =
      (decide (i < len) && decide (i < w) && decide (t ≤ i) && v.getLsbD (i - t)) := by
  induction t generalizing i with
  | zero =>
    have inside : v.getLsbD i = true → i < len ∧ i < w := fun h => by
      refine ⟨BitVec.lt_of_getLsbD h, ?_⟩
      rw [← BitVec.testBit_toNat] at h
      exact (Nat.pow_lt_pow_iff_right one_lt_two).mp ((Nat.ge_two_pow_of_testBit h).trans_lt hv)
    rw [Function.iterate_zero_apply, decide_eq_true (Nat.zero_le i), Bool.and_true, Nat.sub_zero]
    cases hbit : v.getLsbD i with
    | false => rw [Bool.and_false]
    | true => rw [decide_eq_true (inside hbit).1, decide_eq_true (inside hbit).2]; rfl
  | succ t ih =>
    rw [Function.iterate_succ_apply', getLsbD_shlW, ih]
    rcases i with _ | i
    · simp
    · have hlen : i + 1 < len → i < len := by omega
      have hwin : i + 1 < w → i < w := by omega
      by_cases hi : i + 1 < len <;> by_cases hi' : i + 1 < w <;> simp [hi, hi', hlen, hwin]

/-- As many windowed shifts as the window has bits leave none of them. -/
theorem shlW_iterate_eq_zero {len w t : Nat} {v : BitVec len} (hv : v.toNat < 2 ^ w) (ht : w ≤ t) :
    (shlW w)^[t] v = 0 :=
  BitVec.eq_of_getLsbD_eq fun i _ => by
    refine (getLsbD_shlW_iterate hv t i).trans (Eq.trans ?_ BitVec.getLsbD_zero.symm)
    by_cases hi : i < w
    · rw [decide_eq_false (by omega : ¬ t ≤ i), Bool.and_false, Bool.false_and]
    · rw [decide_eq_false hi, Bool.and_false, Bool.false_and, Bool.false_and]

/-- The XOR of the bits of a vector says whether the number of ones among them is odd. -/
theorem parity_eq_odd_onesBelow {len : Nat} (v : BitVec len) :
    parity v = decide (onesBelow (fun i => v.getLsbD i) len % 2 = 1) := by
  have odd_of_first : ∀ n, (List.range n).foldl (fun acc i => acc ^^ v.getLsbD i) false =
      decide (onesBelow (fun i => v.getLsbD i) n % 2 = 1) := by
    intro n
    induction n with
    | zero => rfl
    | succ n ih =>
      rw [List.range_succ, List.foldl_append, ih, onesBelow]
      cases hbit : v.getLsbD n with
      | false => simp [hbit]
      | true =>
        have flip : ∀ k, decide ((k + 1) % 2 = 1) = !decide (k % 2 = 1) := fun k => by
          rw [← decide_not, decide_eq_decide]; omega
        simp only [List.foldl_cons, List.foldl_nil, hbit, if_true, flip, Bool.xor_true]
  exact odd_of_first len

@[simp] theorem parity_zero (len : Nat) : parity 0#len = false := by
  have no_ones : ∀ n, onesBelow (fun i => (0#len).getLsbD i) n = 0 := by
    intro n
    induction n with
    | zero => rfl
    | succ n ih => rw [onesBelow, ih, BitVec.getLsbD_zero]; rfl
  rw [parity_eq_odd_onesBelow, no_ones]; rfl

/-! ### Steps from the zero state and with the zero polynomial -/

/-- With polynomial 0 the feedback is 0, and a step is a windowed shift. -/
theorem lfsrNext_poly_zero {len : Nat} (deg : Nat) (st : BitVec len) :
    lfsrNext deg 0 st = shlW deg st := by
  simp [lfsrNext]

theorem lfsrAfter_poly_zero {len : Nat} (deg : Nat) (st : BitVec len) (t : Nat) :
    lfsrAfter deg 0 st t = (shlW deg)^[t] st := by
  induction t with
  | zero => rfl
  | succ t ih => rw [lfsrAfter, ih, lfsrNext_poly_zero, Function.iterate_succ_apply']

/-- The zero state is a fixed point of the step, whatever the polynomial. -/
theorem lfsrNext_zero {len : Nat} (deg : Nat) (poly : BitVec len) : lfsrNext deg poly 0 = 0 := by
  simp [lfsrNext, shlW]

theorem lfsrAfter_zero {len : Nat} (deg : Nat) (poly : BitVec len) (t : Nat) :
    lfsrAfter deg poly 0 t = 0 := by
  induction t with
  | zero => rfl
  | succ t ih => rw [lfsrAfter, ih, lfsrNext_zero]

/-- The zero state emits 0. -/
theorem lfsrOut_zero {len : Nat} (deg : Nat) : lfsrOut deg (0 : BitVec len) = false :=
  BitVec.getLsbD_zero

/-! ### The states of an LFSR repeat -/

/-- Every state after a start inside the window is inside it. -/
theorem lfsrAfter_lt {len deg : Nat} (hdeg : 1 ≤ deg) {poly st : BitVec len}
    (hst : st.toNat < 2 ^ deg) (t : Nat) : (lfsrAfter deg poly st t).toNat < 2 ^ deg := by
  cases t with
  | zero => exact hst
  | succ t => exact lfsrNext_lt hdeg _ _

/-- Some value inside the window has `sym` as its top bit, so fewer than 2^deg values have the other one. -/
theorem card_values_without_symbol_lt {deg : Nat} (hdeg : 1 ≤ deg) (sym : Bool) :
    ((Finset.range (2 ^ deg)).filter fun n => n.testBit (deg - 1) ≠ sym).card <
      (Finset.range (2 ^ deg)).card := by
  refine Finset.card_lt_card (Finset.filter_ssubset.mpr ?_)
  have htop : 2 ^ (deg - 1) < 2 ^ deg := Nat.pow_lt_pow_right one_lt_two (by omega)
  cases sym with
  | false => exact ⟨0, by simp, by simp⟩
  | true => exact ⟨2 ^ (deg - 1), by simpa using htop, by simp⟩

/-- Emitted bits that avoid a symbol 2^deg times come from states of which two are equal: the states that
emit the symbol are not among them (41_lfsr.md R166). -/
theorem lfsrAfter_repeats {len deg : Nat} {poly st : BitVec len} {sym : Bool} (hdeg : 1 ≤ deg)
    (hst : st.toNat < 2 ^ deg) (hne : ∀ t, t < 2 ^ deg → lfsrBit deg poly st t ≠ sym) :
    ∃ a b, a < b ∧ b < 2 ^ deg ∧ lfsrAfter deg poly st a = lfsrAfter deg poly st b := by
  have hmaps : ∀ t ∈ Finset.range (2 ^ deg), (lfsrAfter deg poly st t).toNat ∈
      (Finset.range (2 ^ deg)).filter fun n => n.testBit (deg - 1) ≠ sym := fun t ht =>
    Finset.mem_filter.mpr ⟨Finset.mem_range.mpr (lfsrAfter_lt hdeg hst t), by
      rw [BitVec.testBit_toNat]; exact hne t (Finset.mem_range.mp ht)⟩
  obtain ⟨a, ha, b, hb, hab, heq⟩ :=
    Finset.exists_ne_map_eq_of_card_lt_of_maps_to (card_values_without_symbol_lt hdeg sym) hmaps
  have heq := BitVec.eq_of_toNat_eq heq
  rw [Finset.mem_range] at ha hb
  rcases Nat.lt_or_gt_of_ne hab with h | h
  · exact ⟨a, b, h, hb, heq⟩
  · exact ⟨b, a, h, ha, heq.symm⟩

/-- 41_lfsr.md R166: once two states are equal no later bit is new. -/
theorem lfsrBit_ne_of_bound {len deg : Nat} {poly st : BitVec len} {sym : Bool} (hdeg : 1 ≤ deg)
    (hst : st.toNat < 2 ^ deg) (hne : ∀ t, t < 2 ^ deg → lfsrBit deg poly st t ≠ sym) (t : Nat) :
    lfsrBit deg poly st t ≠ sym := by
  obtain ⟨a, b, hab, hb, heq⟩ := lfsrAfter_repeats hdeg hst hne
  induction t using Nat.strong_induction_on with
  | _ t ih =>
    rcases Nat.lt_or_ge t b with ht | ht
    · exact hne t (ht.trans hb)
    · have back : lfsrBit deg poly st t = lfsrBit deg poly st (a + (t - b)) := by
        rw [lfsrBit_add, heq, ← lfsrBit_add, Nat.add_sub_cancel' ht]
      rw [back]
      exact ih _ (by omega)

/-! ### The checks of a load -/

/-- Two lists of checks one after the other: the second is reached when the first passes. -/
theorem firstFailing_append (cs ds : List (Bool × CmdErr)) :
    firstFailing (cs ++ ds) = (firstFailing cs).or (firstFailing ds) := by
  induction cs with
  | nil => rfl
  | cons c rest ih =>
    obtain ⟨fails, e⟩ := c
    rw [List.cons_append, firstFailing_cons, firstFailing_cons, ih]
    cases fails <;> rfl

theorem firstFailing_loadChecks_of_legal (load : s.loadLegal) : firstFailing s.loadChecks = none :=
  (firstFailing_eq_none _).mpr ((loadChecks_pass s).mpr load)

/-- LGEN and LGENS on a buffer that exists check what LLOAD checks, and then GLEN. -/
theorem firstFailing_lgenChecks {d : BufIx} (buf : bufLegal z d) : firstFailing (lgenChecks d s) =
    (firstFailing s.loadChecks).or (firstFailing [s.glenCheck]) := by
  have hfield : (!([d].all (bufOk z.nbuf))) = false :=
    (fieldCheck_fst (z := z) [d]).mpr (by simpa using buf)
  rw [lgenChecks, fieldCheck, hfield, List.cons_append, firstFailing_cons, firstFailing_append]
  rfl

/-- The checks of LGEN and LGENS pass on legal operands. -/
theorem checked_lgenChecks_of_legal {d : BufIx} (f : Block z → Block z) (buf : bufLegal z d)
    (load : s.loadLegal) (len : s.glenLegal) : checked (lgenChecks d s) f s = f s := by
  refine checked_of_none ?_
  rw [firstFailing_lgenChecks buf, firstFailing_loadChecks_of_legal load, Option.none_or]
  exact (firstFailing_eq_none _).mpr (by simpa using (glenCheck_fst s).mpr len)

/-! ### The block during a generation -/

/-- The block loaded with its configuration and stepped `j` times, OUT and SB apart. -/
def Block.loadedAt (s : Block z) (j : Nat) : Block z :=
  { s with adeg := s.deg, apoly := s.loadPoly.setWidth _, lfsr := s.genState j, stLv := true }

theorem lfsrLoad_eq_loadedAt (h : s.degreeLegal) : s.lfsrLoad = s.loadedAt 0 := by
  rw [Block.lfsrLoad, effPoly_eq s h]; rfl

theorem genState_add (s : Block z) (j n : Nat) : s.genState (j + n) =
    lfsrAfter (s.loadedAt j).adeg.toNat (s.loadedAt j).apoly (s.loadedAt j).lfsr n :=
  lfsrAfter_add _ _ _ j n

theorem genBit_add (s : Block z) (j n : Nat) : s.genBit (j + n) =
    lfsrBit (s.loadedAt j).adeg.toNat (s.loadedAt j).apoly (s.loadedAt j).lfsr n :=
  lfsrBit_add _ _ _ j n

/-- Recording GLEN bits of a generation from emitted bit number `j` on. -/
theorem lfsrRecord_loadedAt {d : BufIx} {t : Block z} (j : Nat) (buf : bufLegal z d)
    (len : s.glenLegal) (ht : t = lfsrRecord d.toNat 0 s.glen.toNat (s.loadedAt j)) :
    t = { s with
      sb := t.sb, adeg := s.deg, apoly := s.loadPoly.setWidth _, lfsr := s.genState (j + s.glen.toNat)
      stOut := s.genBit (j + s.glen.toNat - 1), stLv := true } ∧
    ∀ b i, t.sbBit b i = if b = d.toNat ∧ i < s.glen.toNat then s.genBit (j + i) else s.sbBit b i := by
  obtain ⟨hpos, hmax⟩ := len
  constructor
  · have hframe := lfsrRecord_frame d.toNat s.glen.toNat 0 (s.loadedAt j)
    rw [← ht, if_neg (by omega), ← genState_add, ← genBit_add, ← Nat.add_sub_assoc hpos] at hframe
    exact hframe
  · intro b i
    rw [ht, sbBit_lfsrRecord, Nat.sub_zero, ← genBit_add]
    have hexists : (b = d.toNat ∧ 0 ≤ i ∧ i < 0 + s.glen.toNat ∧ d.toNat < z.nbuf ∧
        i < z.bufBits) ↔ (b = d.toNat ∧ i < s.glen.toNat) := by
      have : d.toNat < z.nbuf := buf
      omega
    simp only [hexists]
    rfl

/-- When the symbol first comes as emitted bit number `j` within the bound, LGENS records from there on. -/
theorem lgensEffect_found {d : BufIx} {sym : Bool} {j : Nat} (hdeg : s.degreeLegal) (len : s.glenLegal)
    (hj : j < 2 ^ s.deg.toNat) (hsym : s.genBit j = sym) (hne : ∀ u, u < j → s.genBit u ≠ sym) :
    lgensEffect d sym s = lfsrRecord d.toNat 0 s.glen.toNat (s.loadedAt j) := by
  have hskip : lfsrSkip sym (2 ^ s.deg.toNat) (s.loadedAt 0) = (s.loadedAt j).lfsrStep := by
    rw [lfsrSkip_found sym j _ (s.loadedAt 0) hj hsym hne, ← hsym]; rfl
  have hout : (s.loadedAt j).lfsrStep.stOut = sym := hsym
  obtain ⟨hpos, -⟩ := len
  obtain ⟨n, hn⟩ : ∃ n, s.glen.toNat = n + 1 := Nat.exists_eq_add_of_le' hpos
  rw [lgensEffect, lfsrLoad_eq_loadedAt hdeg, hskip, hn, lfsrRecord]
  simp only [hout, beq_self_eq_true, if_true]
  rfl

/-- When none of the first 2^DEG emitted bits is the symbol, LGENS ends in an error after as many steps. -/
theorem lgensEffect_exhausted {d : BufIx} {sym : Bool} (hdeg : s.degreeLegal)
    (hne : ∀ u, u < 2 ^ s.deg.toNat → s.genBit u ≠ sym) :
    lgensEffect d sym s =
      { s.loadedAt (2 ^ s.deg.toNat) with stOut := !sym, stErr := true, errcode := 0x0A } := by
  rw [lgensEffect, lfsrLoad_eq_loadedAt hdeg, lfsrSkip_exhausted sym _ (s.loadedAt 0) hne]
  simp only [Nat.two_pow_pos, Nat.ne_of_gt, if_false, Bool.not_beq_self, Bool.false_eq_true]
  rfl

end Sys2Proof.Machine
end

section
/-! PROOFS. The statements about LLOAD, LSTEP, LGEN and LGENS. -/

namespace Sys2Proof.Machine

variable {z : Params}

/-! ### The errors -/

/-- Settles O24: each is the first check of its command that fails. -/
theorem uninitialisedUnitsReportNotInit : Obligations.UninitialisedUnitsReportNotInit := by
  intro z
  refine ⟨fun s hlv => ?lstep, fun s c hmv => ?notInit, fun s c hmv hpos => ?full⟩
  case lstep => rw [exec_lstep, checked_of_some (e := .notInit) (by simp [hlv])]; rfl
  case notInit => rw [exec_mstep, checked_of_some (e := .notInit) (by simp [hmv])]; rfl
  case full => rw [exec_mstep, checked_of_some (e := .matchesFull) (by simp [hmv, hpos])]; rfl

/-- A check whose flag is down on legal operands fails on illegal ones. -/
theorem eq_true_of_illegal {fails : Bool} {legal : Prop} (iff : fails = false ↔ legal) (h : ¬ legal) :
    fails = true :=
  Bool.of_not_eq_false (mt iff.mp h)

/-- LGEN and LGENS end with the error of their first failing check. -/
theorem exec_of_lgenChecks_fail {s : Block z} {d : BufIx} {i : Instr} {e : CmdErr}
    (hi : i = .lgen d ∨ ∃ sym, i = .lgens d sym) (h : firstFailing (lgenChecks d s) = some e) :
    exec i ⟨z, s⟩ = .next ⟨z, s.cmdError e⟩ := by
  rcases hi with rfl | ⟨sym, rfl⟩
  · rw [exec_lgen, checked_of_some h]
  · rw [exec_lgens, checked_of_some h]

/-- Settles O26: LGEN and LGENS report what the load checks report, as LLOAD does; BAD_LENGTH comes when
these pass. -/
theorem loadErrorsComeInOrder : Obligations.LoadErrorsComeInOrder := by
  intro z i s hi
  have reported : ∀ {e}, firstFailing s.loadChecks = some e →
      exec i ⟨z, s⟩ = .next ⟨z, s.cmdError e⟩ := by
    intro e he
    rcases hi with rfl | ⟨d, buf, hgen⟩
    · rw [exec_lload, checked_of_some he]
    · exact exec_of_lgenChecks_fail hgen (by rw [firstFailing_lgenChecks buf, he]; rfl)
  refine ⟨fun hdeg => reported (e := .badDegree) ?degree,
    fun hdeg hpoly => reported (e := .badPoly) ?poly,
    fun hdeg hpoly hseed => reported (e := .badSeed) ?seed, fun load hne hglen => ?length⟩
  case degree => simp [Block.loadChecks, eq_true_of_illegal (badDegree_iff s) hdeg]
  case poly =>
    simp [Block.loadChecks, (badDegree_iff s).mpr hdeg, eq_true_of_illegal (badPoly_iff s) hpoly]
  case seed =>
    simp [Block.loadChecks, (badDegree_iff s).mpr hdeg, (badPoly_iff s).mpr hpoly,
      eq_true_of_illegal (badSeed_iff s) hseed]
  case length =>
    obtain ⟨d, buf, hgen⟩ := hi.resolve_left hne
    refine exec_of_lgenChecks_fail (e := .badLength) hgen ?_
    rw [firstFailing_lgenChecks buf, firstFailing_loadChecks_of_legal load, Option.none_or]
    exact if_pos (eq_true_of_illegal (glenCheck_fst s) hglen)

/-! ### LLOAD and LSTEP -/

/-- Settles O25: a legal polynomial and a legal seed fit into DEG_MAX bits, so no bit of them is lost. -/
theorem lloadLatchesTheConfiguration : Obligations.LloadLatchesTheConfiguration := by
  intro z s hz load
  have ⟨hdeg, _, hseed⟩ := load
  have ⟨_, hmax⟩ := deg_range hz hdeg
  have fits : ∀ {v : Word}, v.toNat < 2 ^ s.deg.toNat → (v.setWidth z.degMax).toNat = v.toNat :=
    fun h => (BitVec.toNat_setWidth _ _).trans
      (Nat.mod_eq_of_lt (h.trans_le (Nat.pow_le_pow_right two_pos hmax)))
  have hpass : checked s.loadChecks Block.lfsrLoad s = s.lfsrLoad :=
    checked_of_none (firstFailing_loadChecks_of_legal load)
  exact ⟨s.loadedAt 0, by rw [exec_lload, hpass, lfsrLoad_eq_loadedAt hdeg], rfl,
    fits (loadPoly_lt load), fits hseed⟩

theorem exec_lstep_of_loaded {s : Block z} (loaded : s.stLv = true) :
    exec .lstep ⟨z, s⟩ = .next ⟨z, s.lfsrStep⟩ := by
  rw [exec_lstep, checked_of_none (by simp [loaded])]

/-- Settles O27: bit by bit from `getLsbD_lfsrNext`; ADEG is at most DEG_MAX, so the window is inside S. -/
theorem lstepShiftsTheRegister : Obligations.LstepShiftsTheRegister := by
  intro z s loaded hok
  obtain ⟨-, hmax, -, -⟩ := hok loaded
  refine ⟨s.lfsrStep, exec_lstep_of_loaded loaded, rfl, ?feedback, fun j => ?shift⟩
  case feedback =>
    rw [Block.lfsrStep_lfsr, getLsbD_lfsrNext, if_pos rfl, parity_eq_odd_onesBelow]
    simp only [BitVec.getLsbD_and]
  case shift =>
    have hlen : j + 1 < s.adeg.toNat → j + 1 < z.degMax := by omega
    rw [Block.lfsrStep_lfsr, getLsbD_lfsrNext, if_neg j.succ_ne_zero, Nat.add_sub_cancel]
    by_cases hj : j + 1 < s.adeg.toNat <;> simp [hj, hlen]

/-- Settles O34: the bits after w shifts have left the window. -/
theorem windowedShiftEmptiesTheWindow : Obligations.WindowedShiftEmptiesTheWindow :=
  ⟨fun _ w v hv => ⟨shlW_iterate_eq_zero hv le_rfl, by simp [getLsbD_shlW]⟩,
    fun _ deg poly st => getLsbD_lfsrNext deg poly st 0⟩

/-! ### LGEN and LGENS -/

/-- Settles O28: the loop of LGEN records the generation from its first bit on. -/
theorem lgenRecordsTheEmittedBits : Obligations.LgenRecordsTheEmittedBits := by
  intro z d s buf load len
  obtain ⟨hframe, hbits⟩ := lfsrRecord_loadedAt 0 buf len rfl
  simp only [Nat.zero_add] at hframe hbits
  refine ⟨_, ?_, hframe, hbits⟩
  rw [exec_lgen, checked_lgenChecks_of_legal _ buf load len, lfsrLoad_eq_loadedAt load.1]

/-- Settles O29: LGENS records the generation from bit number `j` on. -/
theorem lgensStartsAtTheSymbol : Obligations.LgensStartsAtTheSymbol := by
  intro z d sym s j buf load len hj hsym hne
  refine ⟨_, ?_, lfsrRecord_loadedAt j buf len rfl⟩
  rw [exec_lgens, checked_lgenChecks_of_legal _ buf load len, lgensEffect_found load.1 len hj hsym hne]

/-- Settles O30: the skip takes all its steps and records nothing. -/
theorem lgensWithoutTheSymbolIsExhausted : Obligations.LgensWithoutTheSymbolIsExhausted := by
  intro z d sym s buf load len hne
  rw [exec_lgens, checked_lgenChecks_of_legal _ buf load len, lgensEffect_exhausted load.1 hne]
  rfl

/-- Settles O31: the states repeat within the bound; and an LGENS that found the symbol within it leaves
ERRCODE as it was. -/
theorem skipBoundIsExact : Obligations.SkipBoundIsExact := by
  refine ⟨fun len deg poly st sym hdeg _ _ hst hne => lfsrBit_ne_of_bound hdeg hst hne, ?lgens⟩
  intro z d sym s t hz buf load len hcode hexec hexhausted
  have ⟨hdeg, _, hseed⟩ := load
  refine lfsrBit_ne_of_bound (deg_range hz hdeg).1 (toNat_setWidth_lt hseed) ?within
  by_contra! hfound
  obtain ⟨hj, hsym⟩ := Nat.find_spec hfound
  obtain ⟨t', hexec', hframe, -⟩ := lgensStartsAtTheSymbol z d sym s (Nat.find hfound) buf load len hj
    hsym fun u hu heq => Nat.find_min hfound hu ⟨hu.trans hj, heq⟩
  have hkept : t'.errcode = s.errcode := by rw [hframe]
  rw [hexec', next_inj] at hexec
  rw [← hexec, hkept, hcode] at hexhausted
  exact absurd hexhausted (by decide)

/-- Settles O32: with polynomial 0 the generation shifts the seed through its window. -/
theorem zeroPolynomialShiftsTheSeedOut : Obligations.ZeroPolynomialShiftsTheSeedOut := by
  intro z hz d s buf load len hpoly
  obtain ⟨t, hexec, hframe, hbits⟩ := lgenRecordsTheEmittedBits z d s buf load len
  have ⟨hdeg, _, hlt⟩ := load
  obtain ⟨hpos, hmax⟩ := deg_range hz hdeg
  have hseed : (s.seed.setWidth z.degMax).toNat < 2 ^ s.deg.toNat := toNat_setWidth_lt hlt
  have hstate : ∀ i, s.genState i = (shlW s.deg.toNat)^[i] (s.seed.setWidth z.degMax) := fun i => by
    rw [Block.genState, hpoly]
    simpa using lfsrAfter_poly_zero s.deg.toNat _ i
  refine ⟨t, hexec, fun i hi => ?bits, fun hlong => ?state⟩
  case bits =>
    have hbit : s.genBit i = (s.genState i).getLsbD (s.deg.toNat - 1) := rfl
    rw [hbits, if_pos ⟨rfl, hi⟩, hbit, hstate, getLsbD_shlW_iterate hseed, BitVec.getLsbD_setWidth]
    simp only [decide_eq_true (by omega : s.deg.toNat - 1 < z.degMax),
      decide_eq_true (by omega : s.deg.toNat - 1 < s.deg.toNat),
      decide_eq_true (by omega : s.deg.toNat - 1 - i < z.degMax),
      decide_eq_decide.mpr (by omega : i ≤ s.deg.toNat - 1 ↔ i < s.deg.toNat), Bool.true_and]
  case state =>
    have hlfsr : t.lfsr = s.genState s.glen.toNat := by rw [hframe]
    rw [hlfsr, hstate, shlW_iterate_eq_zero hseed hlong]

/-- Settles O33: the zero state steps to itself and emits 0, in LSTEP and in a generation from seed 0. -/
theorem zeroStateStaysZero : Obligations.ZeroStateStaysZero := by
  intro z
  refine ⟨fun s loaded hzero => ?lstep, fun d s buf load len hseed => ?lgen⟩
  case lstep =>
    rw [exec_lstep_of_loaded loaded, Block.lfsrStep, hzero, lfsrNext_zero, lfsrOut_zero, ← hzero]
  case lgen =>
    obtain ⟨t, hexec, hframe, hbits⟩ := lgenRecordsTheEmittedBits z d s buf load len
    have hstate : ∀ i, s.genState i = 0 := fun i => by
      rw [Block.genState, hseed]
      simpa using lfsrAfter_zero s.deg.toNat _ i
    have hlfsr : t.lfsr = s.genState s.glen.toNat := by rw [hframe]
    refine ⟨t, hexec, hlfsr.trans (hstate _), fun i hi => ?_⟩
    have hbit : s.genBit i = lfsrOut s.deg.toNat (s.genState i) := rfl
    rw [hbits, if_pos ⟨rfl, hi⟩, hbit, hstate, lfsrOut_zero]

end Sys2Proof.Machine
end

section
/-! PROOFS. The statements about ENC, and the order in which ENC, MINIT and MATCH report their errors. -/

namespace Sys2Proof.Machine

variable {z : Params}

/-! ### One check after the other -/

section Checks

variable {check : Bool × CmdErr} {s : Block z}

/-- A check that passes hands over to the checks after it (60_exceptions.md R253). -/
theorem checked_cons_of_pass (h : check.1 = false) (rest : List (Bool × CmdErr))
    (f : Block z → Block z) : checked (check :: rest) f s = checked rest f s := by
  simp only [checked, firstFailing, h, Bool.false_eq_true, if_false]

/-- A check that fails ends the command, whatever checks come after it (60_exceptions.md R253). -/
theorem checked_cons_of_fail (h : check.1 = true) (rest : List (Bool × CmdErr))
    (f : Block z → Block z) : checked (check :: rest) f s = s.cmdError check.2 :=
  checked_of_some (if_pos h)

/-- With operands that exist, the checks after the buffer fields decide. -/
theorem checked_fieldCheck_of_legal {bs : List BufIx} (bufs : ∀ b ∈ bs, bufLegal z b)
    (rest : List (Bool × CmdErr)) (f : Block z → Block z) :
    checked (fieldCheck z bs :: rest) f s = checked rest f s :=
  checked_cons_of_pass ((fieldCheck_fst bs).mpr bufs) rest f

end Checks

/-! ### The errors -/

/-- Settles O37: each error is that of the first check that fails, the checks before it having passed. -/
theorem lengthErrorsComeInOrder : Obligations.LengthErrorsComeInOrder := by
  intro z d a b c s hd ha hb hc
  have encBufs : ∀ x ∈ [d, a, b, c], bufLegal z x := by simp [hd, ha, hb, hc]
  have minitBufs : ∀ x ∈ [a], bufLegal z x := by simp [ha]
  have matchBufs : ∀ x ∈ [a, b], bufLegal z x := by simp [ha, hb]
  rw [exec_enc, exec_minit, exec_match, checked_fieldCheck_of_legal encBufs,
    checked_fieldCheck_of_legal minitBufs, checked_fieldCheck_of_legal matchBufs]
  refine ⟨fun hm => ?patternLength, fun hm hk => ?budget, fun hm hk hn => ?textLength⟩
  case patternLength =>
    have fails := eq_true_of_illegal (mCheck_fst s) hm
    simp only [checked_cons_of_fail fails]
    exact ⟨rfl, rfl, rfl⟩
  case budget =>
    have fails := eq_true_of_illegal (kCheck_fst s) hk
    simp only [checked_cons_of_pass ((mCheck_fst s).mpr hm), checked_cons_of_fail fails]
    exact ⟨rfl, rfl⟩
  case textLength =>
    have fails := eq_true_of_illegal (nCheck_fst s) hn
    rw [checked_cons_of_pass ((mCheck_fst s).mpr hm), checked_cons_of_pass ((kCheck_fst s).mpr hk),
      checked_cons_of_fail fails]
    rfl

/-! ### The ciphertext -/

/-- ENC with legal operands runs its loop over M positions. -/
theorem exec_enc_of_legal {d a b c : BufIx} {s : Block z} (bufs : ∀ x ∈ [d, a, b, c], bufLegal z x)
    (len : s.mLegal) : exec (.enc d a b c) ⟨z, s⟩ =
      .next ⟨z, encLoop d.toNat a.toNat b.toNat c.toNat 0 0 s.m.toNat s⟩ := by
  rw [exec_enc, checked_fieldCheck_of_legal bufs, checked_cons_of_pass ((mCheck_fst s).mpr len)]
  rfl

/-- A pattern of legal length fits into a buffer (00_scope.md R2). -/
theorem m_le_bufBits {s : Block z} (hz : z.ok) (len : s.mLegal) : s.m.toNat ≤ z.bufBits := by
  obtain ⟨-, -, ⟨hfit, -⟩, -⟩ := hz
  obtain ⟨-, hmax⟩ := len
  omega

/-- Settles O35: the loop writes the closed form at M existing bits of buffer D, and SB only. -/
theorem encCombinesTheOldBuffers : Obligations.EncCombinesTheOldBuffers := by
  intro z hz d a b c s hd ha hb hc len
  have bufs : ∀ x ∈ [d, a, b, c], bufLegal z x := by simp [hd, ha, hb, hc]
  refine ⟨_, exec_enc_of_legal bufs len, encLoop_frame .., fun b' i => ?_⟩
  rw [sbBit_encLoop s _ _ _ _ _ 0 0 s (fun _ _ _ => rfl) rfl]
  have hexists : (b' = d.toNat ∧ 0 ≤ i ∧ i < 0 + s.m.toNat ∧ d.toNat < z.nbuf ∧ i < z.bufBits) ↔
      (b' = d.toNat ∧ i < s.m.toNat) := by
    have hfit := m_le_bufBits hz len
    have hbuf : d.toNat < z.nbuf := hd
    omega
  simp only [hexists]

/-- Combining with the same clock and decimated bits is its own inverse, position by position
(42_combiner.md R194). -/
theorem combineBit_of_combineBit (clk dec : Nat → Bool) {pt ct : Nat → Bool} {i : Nat}
    (h : ct i = combineBit clk dec pt i) : combineBit clk dec ct i = pt i := by
  rw [combineBit, h, combineBit, ← Bool.xor_assoc, Bool.xor_self, Bool.false_xor]

/-- Settles O36: the first ENC leaves the clock, the decimated sequence and M, so the second combines the
ciphertext with the same bits. -/
theorem encTwiceRestoresThePlaintext : Obligations.EncTwiceRestoresThePlaintext := by
  intro z hz d e a b c s hd he ha hb hc len hda hdb
  obtain ⟨t, hexec, hframe, ht⟩ := encCombinesTheOldBuffers z hz d a b c s hd ha hb hc len
  have hm : t.m = s.m := by rw [hframe]
  have len' : t.mLegal := by rwa [Block.mLegal, hm]
  obtain ⟨u, hexec', -, hu⟩ := encCombinesTheOldBuffers z hz e a b d t he ha hb hd len'
  refine ⟨t, u, hexec, hexec', fun i hi => ?_⟩
  have kept : ∀ {x : BufIx}, d ≠ x → t.sbBit x.toNat = s.sbBit x.toNat := fun hx => by
    funext j
    rw [ht, if_neg fun h => hx (BitVec.eq_of_toNat_eq h.1.symm)]
  have cipher : t.sbBit d.toNat i =
      combineBit (s.sbBit a.toNat) (s.sbBit b.toNat) (s.sbBit c.toNat) i := by
    rw [ht, if_pos ⟨rfl, hi⟩]
  rw [hu, hm, if_pos ⟨rfl, hi⟩, kept hda, kept hdb]
  exact combineBit_of_combineBit _ _ cipher

end Sys2Proof.Machine
end

section
/-! PROOFS. The commands of the matcher on legal operands: what MINIT builds, and what one MSTEP does to the
rows and records. -/

namespace Sys2Proof.Machine

variable {z : Params} {s : Block z}

/-! ### The commands on legal operands -/

theorem exec_minit_of_legal {a : BufIx} (buf : bufLegal z a) (len : s.mLegal) (budget : s.kLegal) :
    exec (.minit a) ⟨z, s⟩ = .next ⟨z, s.mInit a.toNat⟩ := by
  rw [exec_minit, checked_fieldCheck_of_legal (by simpa using buf),
    checked_cons_of_pass ((mCheck_fst s).mpr len), checked_cons_of_pass ((kCheck_fst s).mpr budget)]
  rfl

theorem exec_mstep_of_room (c : Bool) (started : s.stMv = true) (room : s.pos.toNat < z.bufBits) :
    exec (.mstep c) ⟨z, s⟩ = .next ⟨z, s.mStepBody c⟩ := by
  rw [exec_mstep, checked_of_none]
  simp [started, room]

theorem exec_match_of_legal {a b : BufIx} (bufA : bufLegal z a) (bufB : bufLegal z b) (len : s.mLegal)
    (budget : s.kLegal) (text : s.nLegal) : exec (.matchText a b) ⟨z, s⟩ =
      .next ⟨z, matchLoop a.toNat 0 s.n.toNat (s.mInit b.toNat)⟩ := by
  rw [exec_match, checked_fieldCheck_of_legal (by simp [bufA, bufB]),
    checked_cons_of_pass ((mCheck_fst s).mpr len), checked_cons_of_pass ((kCheck_fst s).mpr budget),
    checked_cons_of_pass ((nCheck_fst s).mpr text)]
  rfl

/-! ### What MINIT builds -/

/-- The masks of a pattern of legal length: the length bounds the bits (43_matcher.md R211). -/
theorem getLsbD_mask_mInit (b : Nat) (len : s.mLegal) (c : Bool) (j : Nat) :
    ((s.mInit b).mask c).getLsbD j =
      (decide (j < s.m.toNat) && ((s.sbBit b j == c) != s.cfgShiftOr)) := by
  have hmask : (s.mInit b).mask c = buildMask (s.sbBit b) s.m.toNat s.cfgShiftOr c := by
    cases c <;> rfl
  obtain ⟨-, hmmax⟩ := len
  rw [hmask, getLsbD_buildMask]
  by_cases hj : j < s.m.toNat
  · rw [decide_eq_true (by omega : j < z.mMax), Bool.true_and]
  · simp [hj]

/-- Rows 0..K of a legal error budget: the pattern's length bounds the bits (43_matcher.md R212). -/
theorem getLsbD_rowK_mInit (b : Nat) (len : s.mLegal) (budget : s.kLegal) {k : Nat}
    (hk : k ≤ s.k.toNat) (j : Nat) : ((s.mInit b).rowK k).getLsbD j =
      (decide (j < s.m.toNat) && (decide (j < k) != s.cfgShiftOr)) := by
  obtain ⟨-, hmmax⟩ := len
  obtain ⟨hkm, hkmax⟩ := budget
  rw [Block.rowK, Block.mInit_row, rowAt_buildRows, if_pos ⟨hk, by omega⟩, getLsbD_initRow]
  by_cases hj : j < s.m.toNat
  · simp [hj, (by omega : j < z.mMax)]
  · have hjk : ¬ j < k := by omega
    rw [decide_eq_false hj, decide_eq_false hjk]; simp

theorem rowK_mInit_above (b : Nat) {k : Nat} (hk : s.k.toNat < k) : (s.mInit b).rowK k = s.rowK k := by
  rw [Block.rowK, Block.mInit_row, rowAt_buildRows, if_neg (by omega), Block.rowK]

/-- Settles O38: the fields are those MInit names, and the masks and rows are given bit by bit above. -/
theorem minitBuildsMasksAndRows : Obligations.MinitBuildsMasksAndRows := fun _ a s buf len budget =>
  ⟨s.mInit a.toNat, exec_minit_of_legal buf len budget, rfl, getLsbD_mask_mInit _ len,
    fun _ j hk => getLsbD_rowK_mInit _ len budget hk j, fun _ hk => rowK_mInit_above _ hk⟩

/-! ### The rows after one symbol -/

/-- The rows after a symbol are those of the update: recording a level writes none. -/
theorem rowK_mStepBody (s : Block z) (c : Bool) (k : Nat) :
    (s.mStepBody c).rowK k = (s.updateRows c).rowK k := rfl

/-- A windowed shift whose window fits the vector is bounded by the window alone. -/
theorem getLsbD_shlW_of_fits {len w : Nat} (hw : w ≤ len) (v : BitVec len) (i : Nat) :
    (shlW w v).getLsbD i = (decide (i < w) && decide (0 < i) && v.getLsbD (i - 1)) := by
  rw [getLsbD_shlW]
  by_cases hi : i < w
  · simp [hi, (by omega : i < len)]
  · simp [hi]

/-- With one fill the window must hold the bit that enters. -/
theorem getLsbD_shl1W_of_fits {len w : Nat} (hpos : 1 ≤ w) (hw : w ≤ len) (v : BitVec len) (i : Nat) :
    (shl1W w v).getLsbD i = (decide (i < w) && (decide (i = 0) || v.getLsbD (i - 1))) := by
  rw [getLsbD_shl1W]
  by_cases hi : i < w
  · simp [hi, (by omega : i < len)]
  · have hi0 : ¬ i = 0 := by omega
    rw [decide_eq_false hi, decide_eq_false hi0]; simp

/-- The ones of a window that fits the vector are the window. -/
theorem getLsbD_ones_of_fits {len w : Nat} (hw : w ≤ len) (i : Nat) :
    (ones len w).getLsbD i = decide (i < w) := by
  rw [getLsbD_ones, ← Bool.decide_and, decide_eq_decide]
  omega

/-- Settles O39: row 0 and the rows above it have the terms of R221, each shift bounded by the window. -/
theorem mstepUpdatesShiftAndRows : Obligations.MstepUpdatesShiftAndRows := by
  intro z c s started hok room haso
  obtain ⟨ham, hammax, -, hkmax, -⟩ := hok started
  refine ⟨s.mStepBody c, exec_mstep_of_room c started room, fun j => ?row0, fun k j hk => ?rowI,
    fun k hk => rowK_updateRows_above s c hkmax k hk⟩
  case row0 =>
    rw [rowK_mStepBody, rowK_updateRows_zero s c hkmax, stepRow0, haso, if_neg Bool.false_ne_true,
      BitVec.getLsbD_and, getLsbD_shl1W_of_fits ham hammax]
  case rowI =>
    rw [rowK_mStepBody, rowK_mStepBody, rowK_updateRows_succ s c hkmax k hk, stepRowI, haso,
      if_neg Bool.false_ne_true, BitVec.getLsbD_or, BitVec.getLsbD_or, BitVec.getLsbD_and,
      getLsbD_shl1W_of_fits ham hammax]
    cases s.ains
    · simp
    · simp [getLsbD_shl1W_of_fits ham hammax, Bool.or_assoc]

/-- Settles O40: the dual terms of R223, where an absent insertion term is the whole window. -/
theorem mstepUpdatesShiftOrRows : Obligations.MstepUpdatesShiftOrRows := by
  intro z c s started hok room haso
  obtain ⟨ham, hammax, -, hkmax, -⟩ := hok started
  refine ⟨s.mStepBody c, exec_mstep_of_room c started room, fun j => ?row0, fun k j hk => ?rowI,
    fun k hk => rowK_updateRows_above s c hkmax k hk⟩
  case row0 =>
    rw [rowK_mStepBody, rowK_updateRows_zero s c hkmax, stepRow0, haso, if_pos rfl,
      BitVec.getLsbD_or, getLsbD_shlW_of_fits hammax]
  case rowI =>
    rw [rowK_mStepBody, rowK_mStepBody, rowK_updateRows_succ s c hkmax k hk, stepRowI, haso,
      if_pos rfl, BitVec.getLsbD_and, BitVec.getLsbD_and, BitVec.getLsbD_or,
      getLsbD_shlW_of_fits hammax]
    cases s.ains
    · rw [if_neg Bool.false_ne_true, getLsbD_ones_of_fits hammax]; simp
    · simp [getLsbD_shlW_of_fits hammax, Bool.and_assoc]

/-! ### The level a symbol records -/

/-- The level is AM where row AK does not signal (43_matcher.md R224). -/
theorem lastLvl_of_not_lit {c : Bool} (h : (s.mStepBody c).lit s.ak.toNat (s.am.toNat - 1) = false) :
    (s.mStepBody c).lastLvl = s.am :=
  if_neg (Bool.eq_false_iff.mp h)

/-- Where row AK signals, the level is a row that signals with none below it (43_matcher.md R224). -/
theorem lastLvl_of_lit {c : Bool} (h : (s.mStepBody c).lit s.ak.toNat (s.am.toNat - 1) = true) :
    (s.mStepBody c).lastLvl.toNat ≤ s.ak.toNat ∧
      (s.mStepBody c).lit (s.mStepBody c).lastLvl.toNat (s.am.toNat - 1) = true ∧
      ∀ k, k < (s.mStepBody c).lastLvl.toNat → (s.mStepBody c).lit k (s.am.toNat - 1) = false := by
  rcases curLevel_cases (s.updateRows c) with ⟨hnot, -⟩ | hleast
  · exact absurd h (Bool.eq_false_iff.mp hnot)
  · exact hleast

/-- No other row signals with none below it. -/
theorem lastLvl_eq_of_least {c : Bool} {k : Nat}
    (htop : (s.mStepBody c).lit s.ak.toNat (s.am.toNat - 1) = true)
    (hk : (s.mStepBody c).lit k (s.am.toNat - 1) = true)
    (hbelow : ∀ k', k' < k → (s.mStepBody c).lit k' (s.am.toNat - 1) = false) :
    (s.mStepBody c).lastLvl.toNat = k := by
  obtain ⟨-, hlit, hleast⟩ := lastLvl_of_lit htop
  refine Nat.le_antisymm (Nat.le_of_not_lt fun hlt => ?_) (Nat.le_of_not_lt fun hlt => ?_)
  · simp [hleast k hlt] at hk
  · simp [hbelow _ hlt] at hlit

/-- Settles O41: the recorded level is LASTLVL, and Record writes the other results. -/
theorem mstepRecordsTheLevel : Obligations.MstepRecordsTheLevel := fun _ c s started _ room =>
  ⟨s.mStepBody c, (s.mStepBody c).lastLvl, exec_mstep_of_room c started room, rfl,
    level_mStepBody c room, lastLvl_of_not_lit, lastLvl_of_lit⟩

/-- In nested rows what a row signals every row above it up to AK signals (43_matcher.md R237). -/
theorem lit_mono_of_nestedOk (started : s.stMv = true) (hs : s.nestedOk) {k k' j : Nat} (hle : k ≤ k')
    (hk' : k' ≤ s.ak.toNat) (hj : j < s.am.toNat) (h : s.lit k j = true) : s.lit k' j = true := by
  induction k', hle using Nat.le_induction with
  | base => exact h
  | succ i _ ih => exact hs started i j hk' hj (ih (Nat.le_of_succ_le hk'))

/-- Settles O42: the rows stay nested, so row AK signals whenever a row of 0..AK does. -/
theorem levelIsTheLeastSignallingRow : Obligations.LevelIsTheLeastSignallingRow := by
  intro z c s started hok hnested room
  obtain ⟨ham, -⟩ := hok started
  refine ⟨s.mStepBody c, exec_mstep_of_room c started room,
    fun hnone => lastLvl_of_not_lit (hnone _ (Nat.le_refl _)), fun k hk hlit hbelow => ?_⟩
  have hnested' : (s.mStepBody c).nestedOk := nestedOk_mStepBody c started hok hnested
  have htop : (s.mStepBody c).lit s.ak.toNat (s.am.toNat - 1) = true :=
    lit_mono_of_nestedOk (s := s.mStepBody c) started hnested' hk (Nat.le_refl _)
      (Nat.sub_one_lt_of_lt ham) hlit
  exact lastLvl_eq_of_least htop hlit hbelow

end Sys2Proof.Machine
end

section
/-! PROOFS. A text as a sequence of symbols: the block after each symbol of it, which is what a run of MSTEPs
and MATCH reach, and the statements about what MATCH leaves behind. -/

namespace Sys2Proof.Machine

variable {z : Params} {s : Block z}

/-! ### The block after a text -/

/-- The block after the symbols `text 0`, …, `text (n - 1)`, each consumed by MStepBody
(43_matcher.md R220). -/
def Block.feed (s : Block z) (text : Nat → Bool) : Nat → Block z
  | 0 => s
  | n + 1 => (s.feed text n).mStepBody (text n)

theorem feed_succ (s : Block z) (text : Nat → Bool) (n : Nat) :
    s.feed text (n + 1) = (s.feed text n).mStepBody (text n) := rfl

/-- The first symbol, then the rest of the text. -/
theorem feed_succ_eq_feed_mStepBody (s : Block z) (text : Nat → Bool) (n : Nat) :
    s.feed text (n + 1) = (s.mStepBody (text 0)).feed (fun i => text (i + 1)) n := by
  induction n with
  | zero => rfl
  | succ n ih => rw [feed_succ, ih, feed_succ]

/-- Only the symbols that are consumed matter. -/
theorem feed_congr {text text' : Nat → Bool} {n : Nat} (h : ∀ i, i < n → text i = text' i) :
    s.feed text n = s.feed text' n := by
  induction n with
  | zero => rfl
  | succ n ih =>
    rw [feed_succ, feed_succ, ih fun i hi => h i (Nat.lt_succ_of_lt hi), h n (Nat.lt_succ_self n)]

/-- A text changes ROW, MATCHES, LASTLVL, MINLVL, ANY and P only. -/
theorem feed_frame (s : Block z) (text : Nat → Bool) (n : Nat) :
    s.feed text n =
      { s with
        row := (s.feed text n).row
        matchLvls := (s.feed text n).matchLvls
        lastLvl := (s.feed text n).lastLvl
        minLvl := (s.feed text n).minLvl
        stAny := (s.feed text n).stAny
        pos := (s.feed text n).pos } := by
  induction n with
  | zero => rfl
  | succ n ih => rw [feed_succ, ih]; rfl

section Frame

variable (s : Block z) (text : Nat → Bool) (n : Nat)

@[simp] theorem feed_am : (s.feed text n).am = s.am := by rw [feed_frame]
@[simp] theorem feed_ak : (s.feed text n).ak = s.ak := by rw [feed_frame]
@[simp] theorem feed_aso : (s.feed text n).aso = s.aso := by rw [feed_frame]
@[simp] theorem feed_ains : (s.feed text n).ains = s.ains := by rw [feed_frame]
@[simp] theorem feed_stMv : (s.feed text n).stMv = s.stMv := by rw [feed_frame]
@[simp] theorem feed_hit : (s.feed text n).hit = s.hit := by rw [feed_frame]; rfl

end Frame

/-- A row above AK is not touched by a text. -/
theorem rowK_feed_above (text : Nat → Bool) (hkmax : s.ak.toNat ≤ z.kMax) {k : Nat}
    (hk : s.ak.toNat < k) (n : Nat) : (s.feed text n).rowK k = s.rowK k := by
  induction n with
  | zero => rfl
  | succ n ih =>
    rw [feed_succ, rowK_mStepBody, rowK_updateRows_above _ _ (by simpa) _ (by simpa), ih]

/-! ### The position and the levels -/

theorem toNat_pos_mStepBody (hz : z.ok) (c : Bool) (room : s.pos.toNat < z.bufBits) :
    (s.mStepBody c).pos.toNat = s.pos.toNat + 1 := toNat_pos_add_one hz room

/-- Each symbol advances the position by one, where MATCHES has room for the text. -/
theorem toNat_pos_feed (hz : z.ok) (text : Nat → Bool) {n : Nat} (room : s.pos.toNat + n ≤ z.bufBits) :
    (s.feed text n).pos.toNat = s.pos.toNat + n := by
  induction n with
  | zero => rfl
  | succ n ih =>
    have hpos := ih (by omega)
    rw [feed_succ, toNat_pos_mStepBody hz _ (by omega), hpos, Nat.add_assoc]

/-- The level of a position is the one its symbol recorded; entries past the text keep their value
(43_matcher.md R225). -/
theorem level_feed (hz : z.ok) (text : Nat → Bool) (hpos : s.pos = 0) {n : Nat} (room : n ≤ z.bufBits)
    (p : Nat) : (s.feed text n).level p =
      if p < n then (s.feed text (p + 1)).lastLvl else s.level p := by
  induction n with
  | zero => rw [if_neg (Nat.not_lt_zero p)]; rfl
  | succ n ih =>
    have hposn : (s.feed text n).pos.toNat = n := by
      rw [toNat_pos_feed hz text (by simp [hpos]; omega)]; simp [hpos]
    rw [feed_succ, level_mStepBody _ (by omega), hposn, ih (by omega)]
    by_cases hp : p = n
    · rw [if_pos hp, if_pos (by omega), hp]; rfl
    · rw [if_neg hp]
      by_cases hlt : p < n
      · rw [if_pos hlt, if_pos (by omega)]
      · rw [if_neg hlt, if_neg (by omega)]

/-- What a preprocessed pattern establishes and a symbol keeps holds after every text that fits. -/
theorem MatcherInvariant.feed {inv : {z : Params} → Block z → Prop} (hinv : MatcherInvariant inv)
    (hz : z.ok) (b : Nat) (len : s.mLegal) (budget : s.kLegal) (text : Nat → Bool) {n : Nat}
    (room : n ≤ z.bufBits) :
    ((s.mInit b).feed text n).matcherOk ∧ inv ((s.mInit b).feed text n) := by
  induction n with
  | zero => exact ⟨matcherOk_matcherInvariant.mInit b hz len budget, hinv.mInit b hz len budget⟩
  | succ n ih =>
    obtain ⟨hok, hs⟩ := ih (by omega)
    have started : ((s.mInit b).feed text n).stMv = true := by simp
    have hpos : ((s.mInit b).feed text n).pos.toNat < z.bufBits := by
      rw [toNat_pos_feed hz text (by simp; omega)]; simpa using room
    exact ⟨matcherOk_mStepBody hz _ started hpos hok, hinv.mStepBody _ hz started hpos hok hs⟩

/-! ### The commands that consume a text -/

/-- The loop of MATCH feeds the bits of the text buffer (43_matcher.md R230). -/
theorem matchLoop_eq_feed (a : Nat) (s : Block z) (n : Nat) :
    matchLoop a 0 n s = s.feed (s.sbBit a) n := by
  induction n with
  | zero => rfl
  | succ n ih => rw [matchLoop_succ, ih, feed_succ, Nat.zero_add]

/-- MSTEPs feed their symbols, where MATCHES has room for them. -/
theorem runMsteps_eq_feed (hz : z.ok) : ∀ (text : List Bool) (s : Block z), s.stMv = true →
    s.pos.toNat + text.length ≤ z.bufBits →
    runMsteps text ⟨z, s⟩ = .next ⟨z, s.feed (textBit text) text.length⟩
  | [], _, _, _ => rfl
  | c :: text, s, started, room => by
    rw [List.length_cons] at room
    have hpos : s.pos.toNat < z.bufBits := by omega
    have room' : (s.mStepBody c).pos.toNat + text.length ≤ z.bufBits := by
      rw [toNat_pos_mStepBody hz c hpos]; omega
    rw [runMsteps, exec_mstep_of_room c started hpos, List.length_cons, feed_succ_eq_feed_mStepBody]
    exact runMsteps_eq_feed hz text _ started room'

/-- MINIT and the MSTEPs of a text that fits MATCHES feed the text to the preprocessed pattern. -/
theorem runText_eq_feed (hz : z.ok) {a : BufIx} {text : List Bool} (buf : bufLegal z a)
    (len : s.mLegal) (budget : s.kLegal) (room : text.length ≤ z.bufBits) :
    runText a text ⟨z, s⟩ = .next ⟨z, (s.mInit a.toNat).feed (textBit text) text.length⟩ := by
  rw [runText, exec_minit_of_legal buf len budget]
  exact runMsteps_eq_feed hz text _ rfl (by simpa using room)

/-- MATCH feeds the first N bits of its text buffer to the preprocessed pattern. -/
theorem exec_match_eq_feed {a b : BufIx} (bufA : bufLegal z a) (bufB : bufLegal z b) (len : s.mLegal)
    (budget : s.kLegal) (text : s.nLegal) : exec (.matchText a b) ⟨z, s⟩ =
      .next ⟨z, (s.mInit b.toNat).feed (s.sbBit a.toNat) s.n.toNat⟩ := by
  rw [exec_match_of_legal bufA bufB len budget text, matchLoop_eq_feed]
  rfl

/-! ### The statements about MATCH -/

/-- After MATCH the position is N: it started at 0, and N levels fit (43_matcher.md R231). -/
theorem pos_feed_mInit (hz : z.ok) (b : Nat) (text : Nat → Bool) (len : s.nLegal) :
    ((s.mInit b).feed text s.n.toNat).pos = s.n := by
  obtain ⟨-, hmax⟩ := len
  apply BitVec.eq_of_toNat_eq
  rw [toNat_pos_feed hz text (by simpa using hmax)]
  simp

/-- Settles O43: both runs feed the same N bits to the same preprocessed pattern, and a text changes only
what `feed_frame` names. -/
theorem matchIsMinitThenMsteps : Obligations.MatchIsMinitThenMsteps := by
  intro z hz a b s bufA bufB len budget text
  have hrun := runMsteps_eq_feed hz ((List.range s.n.toNat).map (s.sbBit a.toNat)) (s.mInit b.toNat) rfl
    (by simpa using text.2)
  have hbits : ∀ i, i < s.n.toNat →
      textBit ((List.range s.n.toNat).map (s.sbBit a.toNat)) i = s.sbBit a.toNat i := fun i hi => by
    simp [textBit, hi]
  rw [List.length_map, List.length_range, feed_congr hbits] at hrun
  refine ⟨_, _, exec_minit_of_legal bufB len budget, hrun,
    exec_match_eq_feed bufA bufB len budget text, ?frame, fun k hk => ?rows, fun p hp => ?levels⟩
  case frame =>
    have hpos := pos_feed_mInit hz b.toNat (s.sbBit a.toNat) text
    rw [feed_frame, hpos]
    rfl
  case rows =>
    rw [rowK_feed_above _ budget.2 hk, rowK_mInit_above _ hk]
  case levels =>
    rw [level_feed hz _ rfl text.2, if_neg (by omega)]
    rfl

/-- Settles O49: the results agree after a text, and its positions are 0..N-1. -/
theorem anyIsTheCandidateTest : Obligations.AnyIsTheCandidateTest := by
  intro z hz a b s bufA bufB len budget text
  obtain ⟨-, hresults⟩ :=
    resultsOk_matcherInvariant.feed hz b.toNat len budget (s.sbBit a.toNat) text.2
  obtain ⟨hlevels, hmin, -, hany⟩ := hresults (by simp)
  rw [pos_feed_mInit hz _ _ text] at hlevels hmin
  rw [feed_am] at hmin hany
  refine ⟨_, exec_match_eq_feed bufA bufB len budget text, hany.trans ⟨fun hlow => ?_, ?_⟩,
    fun p hp => (hlevels p hp).2, hmin⟩
  · rcases hmin with hsentinel | ⟨p, hp, hlevel⟩
    · exact absurd hlow (by simp [hsentinel])
    · exact ⟨p, hp, by rwa [hlevel]⟩
  · rintro ⟨p, hp, hlow⟩
    exact Nat.lt_of_le_of_lt (hlevels p hp).2 hlow

end Sys2Proof.Machine
end

section
/-! PROOFS. What the rows and levels measure: the columns of the distance table, the rows as the pattern
beginnings within each distance, and the statements that follow from it. -/

namespace Sys2Proof.Machine

variable {z : Params} {s : Block z}

/-! ### The columns of the distance table -/

section Columns

variable (ains : Bool) (pat text : Nat → Bool) (c : Bool) (d : Nat → Nat)

@[simp] theorem distCol_zero (j : Nat) : distCol ains pat text 0 j = j := rfl

@[simp] theorem distCol_empty (p : Nat) : distCol ains pat text p 0 = 0 := by
  cases p <;> rfl

/-- Distance 0: the symbol matches and what stands before it had distance 0. -/
theorem distNext_succ_le_zero (j : Nat) :
    distNext ains pat c d (j + 1) ≤ 0 ↔ d j ≤ 0 ∧ pat j = c := by
  rw [distNext]
  by_cases h : pat j = c <;> cases ains <;> simp [h]

/-- Distance at most k + 1: a match from within k + 1, an extra text symbol from within k or, with
insertion, a mismatch or a missing pattern symbol from within k (43_matcher.md R240). -/
theorem distNext_succ_le_succ (j k : Nat) :
    distNext ains pat c d (j + 1) ≤ k + 1 ↔
      (d j ≤ k + 1 ∧ pat j = c) ∨ d (j + 1) ≤ k ∨
        (ains = true ∧ (d j ≤ k ∨ distNext ains pat c d j ≤ k)) := by
  rw [distNext]
  by_cases h : pat j = c <;> cases ains <;> simp [h] <;> omega

/-- After p text symbols the first j pattern symbols are at distance j - p at least (43_matcher.md R241). -/
theorem le_distCol_add (p j : Nat) : j ≤ distCol ains pat text p j + p := by
  induction p generalizing j with
  | zero => rfl
  | succ p ih =>
    induction j with
    | zero => exact Nat.zero_le _
    | succ j ihj =>
      have hdiag := ih j
      have hextra := ih (j + 1)
      rw [distCol] at ihj ⊢
      rw [distNext]
      by_cases h : pat j = text p <;> cases ains <;> simp [h] <;> omega

/-- Distance 0 is equality with the end of the text (43_matcher.md R238). -/
theorem distCol_le_zero_iff (p j : Nat) :
    distCol ains pat text p j ≤ 0 ↔ j ≤ p ∧ ∀ u, u < j → text (p - j + u) = pat u := by
  induction p generalizing j with
  | zero => simp +contextual
  | succ p ih =>
    cases j with
    | zero => simp
    | succ j =>
      rw [distCol, distNext_succ_le_zero, ih, Nat.forall_lt_succ_right, Nat.add_sub_add_right]
      constructor
      · rintro ⟨⟨hjp, hbits⟩, hlast⟩
        exact ⟨by omega, hbits, by rw [Nat.sub_add_cancel hjp, hlast]⟩
      · rintro ⟨hjp, hbits, hlast⟩
        have hjp : j ≤ p := by omega
        exact ⟨⟨hjp, hbits⟩, by rw [← hlast, Nat.sub_add_cancel hjp]⟩

end Columns

/-! ### Rows that measure a column -/

/-- Row k of 0..AK signals the first j + 1 pattern symbols exactly when their distance `d (j + 1)` is at most
k (43_matcher.md R240). -/
def Block.measures (s : Block z) (d : Nat → Nat) : Prop :=
  ∀ k j, k ≤ s.ak.toNat → j < s.am.toNat → s.lit k j = decide (d (j + 1) ≤ k)

/-- The masks are those of the pattern (43_matcher.md R211). -/
def Block.hasPattern (s : Block z) (pat : Nat → Bool) : Prop :=
  ∀ c j, j < s.am.toNat → s.hit c j = (pat j == c)

/-- The bit a one-filled shift moves to position j speaks of the first j pattern symbols, the empty
beginning having distance 0. -/
theorem Block.measures.shifted {d : Nat → Nat} (hs : s.measures d) (hd : d 0 = 0) {k j : Nat}
    (hk : k ≤ s.ak.toNat) (hj : j < s.am.toNat) :
    (decide (j = 0) || s.lit k (j - 1)) = decide (d j ≤ k) := by
  cases j with
  | zero => simp [hd]
  | succ j => simpa using hs k j hk (Nat.lt_of_succ_lt hj)

/-- A symbol takes rows that measure a column to rows that measure the next one. -/
theorem Block.measures.mStepBody {pat : Nat → Bool} {d : Nat → Nat} (hs : s.measures d) (hd : d 0 = 0)
    (hpat : s.hasPattern pat) (c : Bool) (hmmax : s.am.toNat ≤ z.mMax) (hkmax : s.ak.toNat ≤ z.kMax) :
    (s.mStepBody c).measures (distNext s.ains pat c d) := by
  intro k
  change ∀ j, k ≤ s.ak.toNat → j < s.am.toNat → _
  induction k with
  | zero =>
    intro j hk hj
    rw [lit_mStepBody_zero c hkmax hj (by omega), hs.shifted hd hk hj, hpat c j hj,
      Bool.eq_iff_iff, decide_eq_true_iff, distNext_succ_le_zero]
    simp
  | succ k ih =>
    intro j hk hj
    have hk' : k ≤ s.ak.toNat := by omega
    have hbelow : (decide (j = 0) || (s.lit k (j - 1) || (s.mStepBody c).lit k (j - 1))) =
        (decide (d j ≤ k) || decide (distNext s.ains pat c d j ≤ k)) := by
      rw [← hs.shifted hd hk' hj]
      cases j with
      | zero => simp
      | succ j => simp [ih j hk' (Nat.lt_of_succ_lt hj)]
    rw [lit_mStepBody_succ c hkmax hk hj (by omega), hs.shifted hd hk hj, hpat c j hj,
      hs k j hk' hj, hbelow, Bool.eq_iff_iff, decide_eq_true_iff, distNext_succ_le_succ]
    simp [or_assoc]

theorem lit_mInit (b : Nat) (len : s.mLegal) (budget : s.kLegal) {k j : Nat} (hk : k ≤ s.k.toNat)
    (hj : j < s.m.toNat) : (s.mInit b).lit k j = decide (j < k) := by
  rw [Block.lit, getLsbD_rowK_mInit b len budget hk, decide_eq_true hj, Bool.true_and, Block.mInit_aso]
  cases s.cfgShiftOr <;> simp

theorem hasPattern_mInit (b : Nat) (len : s.mLegal) : (s.mInit b).hasPattern (s.sbBit b) := by
  intro c j hj
  have hj : j < s.m.toNat := hj
  rw [Block.hit, getLsbD_mask_mInit b len, decide_eq_true hj, Bool.true_and, Block.mInit_aso]
  cases s.cfgShiftOr <;> simp

/-- After a text the rows measure the column of its last symbol (43_matcher.md R240). -/
theorem measures_feed_mInit (b : Nat) (len : s.mLegal) (budget : s.kLegal) (text : Nat → Bool) (n : Nat) :
    ((s.mInit b).feed text n).measures (distCol s.cfgAllowIns (s.sbBit b) text n) := by
  induction n with
  | zero => exact fun k j hk hj => lit_mInit b len budget hk hj
  | succ n ih =>
    have hpat : ((s.mInit b).feed text n).hasPattern (s.sbBit b) := by
      rw [Block.hasPattern, feed_hit, feed_am]
      exact hasPattern_mInit b len
    have hnext := ih.mStepBody (distCol_empty ..) hpat (text n) (by simpa using len.2)
      (by simpa using budget.2)
    rwa [feed_ains] at hnext

/-- Rows that measure a column give as level the pattern's distance up to AK, and AM beyond it. -/
theorem toNat_lastLvl_of_measures {c : Bool} {d : Nat → Nat} (ham : 1 ≤ s.am.toNat)
    (hs : (s.mStepBody c).measures d) : (s.mStepBody c).lastLvl.toNat =
      if d s.am.toNat ≤ s.ak.toNat then d s.am.toNat else s.am.toNat := by
  have hlit : ∀ k, k ≤ s.ak.toNat →
      (s.mStepBody c).lit k (s.am.toNat - 1) = decide (d s.am.toNat ≤ k) := fun k hk => by
    have h := hs k (s.am.toNat - 1) hk (Nat.sub_one_lt_of_lt ham)
    rwa [Nat.sub_add_cancel ham] at h
  split
  case isTrue hd =>
    refine lastLvl_eq_of_least ?_ ?_ fun k' hk' => ?_
    · simpa [hlit _ (Nat.le_refl _)] using hd
    · simp [hlit _ hd]
    · simpa [hlit k' (by omega)] using hk'
  case isFalse hd =>
    rw [lastLvl_of_not_lit]
    simpa [hlit _ (Nat.le_refl _)] using hd

/-- The level of every position of a text is the pattern's distance there up to K, and M beyond it. -/
theorem toNat_level_feed_mInit (hz : z.ok) (b : Nat) (len : s.mLegal) (budget : s.kLegal)
    (text : Nat → Bool) {n p : Nat} (room : n ≤ z.bufBits) (hp : p < n) :
    (((s.mInit b).feed text n).level p).toNat =
      if distCol s.cfgAllowIns (s.sbBit b) text (p + 1) s.m.toNat ≤ s.k.toNat
      then distCol s.cfgAllowIns (s.sbBit b) text (p + 1) s.m.toNat else s.m.toNat := by
  have hmeasures := measures_feed_mInit b len budget text (p + 1)
  rw [level_feed hz text rfl room, if_pos hp, feed_succ,
    toNat_lastLvl_of_measures (by simpa using len.1) hmeasures, feed_am, feed_ak]
  rfl

/-! ### The statements -/

/-- Settles O47: rows and levels are read off the columns. -/
theorem levelMeasuresTheDistance : Obligations.LevelMeasuresTheDistance := by
  intro z hz a text s buf len budget room
  refine ⟨_, runText_eq_feed hz buf len budget room,
    fun p hp => toNat_level_feed_mInit hz _ len budget _ room hp, fun k j hk hj => ?_⟩
  exact measures_feed_mInit _ len budget _ _ k j (by simpa using hk) (by simpa using hj)

/-- Settles O48: a distance is at least what the text read so far leaves of the pattern. -/
theorem levelsAreBounded : Obligations.LevelsAreBounded := by
  intro z hz a text s buf len budget room
  obtain ⟨t, hrun, hlevel, -⟩ := levelMeasuresTheDistance z hz a text s buf len budget room
  refine ⟨t, hrun, fun p hp => ?_⟩
  have hdist := le_distCol_add s.cfgAllowIns (s.sbBit a.toNat) (textBit text) (p + 1) s.m.toNat
  obtain ⟨hm, -⟩ := len
  obtain ⟨hk, -⟩ := budget
  have hlvl := hlevel p hp
  rw [← BitVec.toNat_inj, ← BitVec.toNat_inj]
  change _ ∧ _ ∧ _ ∧ ((t.level p).toNat = 0 → _)
  split at hlvl <;> omega

/-- Settles O45: with K = 0 the level is 0 exactly at distance 0, which is equality. -/
theorem kZeroIsExactMatching : Obligations.KZeroIsExactMatching := by
  intro z hz a text s buf len hk room
  have hkzero : s.k.toNat = 0 := by simp [hk]
  have budget : s.kLegal := ⟨by rw [hkzero]; exact len.1, by rw [hkzero]; exact Nat.zero_le _⟩
  obtain ⟨t, hrun, hlevel, hrows⟩ := levelMeasuresTheDistance z hz a text s buf len budget room
  refine ⟨t, hrun, fun p hp => ?levels, fun j hj => ?rows⟩
  case levels =>
    have hlvl := hlevel p hp
    simp only [hkzero, distCol_le_zero_iff] at hlvl
    constructor
    · intro hmatch
      rw [if_pos hmatch] at hlvl
      have hzero := (distCol_le_zero_iff s.cfgAllowIns _ _ _ _).mpr hmatch
      exact BitVec.eq_of_toNat_eq (hlvl.trans (Nat.le_zero.mp hzero))
    · intro hmismatch
      rw [if_neg hmismatch] at hlvl
      exact BitVec.eq_of_toNat_eq hlvl
  case rows =>
    rw [hrows 0 j (Nat.zero_le _) hj, decide_eq_true_iff, distCol_le_zero_iff]
    simp only [Nat.lt_succ_iff, Nat.succ_le_iff, Nat.sub_sub, Nat.add_comm 1]

/-- The bits of a row after a text: inside the window those of the column, whatever K is. -/
theorem getLsbD_rowK_feed_mInit (hz : z.ok) (b : Nat) (len : s.mLegal) (budget : s.kLegal)
    (text : Nat → Bool) {n k : Nat} (room : n ≤ z.bufBits) (hk : k ≤ s.k.toNat) (j : Nat) :
    (((s.mInit b).feed text n).rowK k).getLsbD j =
      (decide (j < s.m.toNat) &&
        (decide (distCol s.cfgAllowIns (s.sbBit b) text n (j + 1) ≤ k) != s.cfgShiftOr)) := by
  by_cases hj : j < s.m.toNat
  · have hlit := measures_feed_mInit b len budget text n k j (by simpa using hk) (by simpa using hj)
    rw [← hlit, decide_eq_true hj, Bool.true_and, Block.lit, feed_aso, Block.mInit_aso]
    cases s.cfgShiftOr <;> simp
  · obtain ⟨-, hwindow⟩ := windowOk_matcherInvariant.feed hz b len budget text room
    obtain ⟨-, -, hrow⟩ := hwindow (by simp) j (by simpa using hj)
    rw [decide_eq_false hj, Bool.false_and]
    exact hrow k (by simpa using hk)

/-- Settles O46: both runs measure the same columns. -/
theorem largerKKeepsEveryMatch : Obligations.LargerKKeepsEveryMatch := by
  intro z hz a text s k' buf len hle hk' hkmax room
  let s' : Block z := { s with k := k' }
  have budget : s.kLegal := ⟨Nat.lt_of_le_of_lt hle hk', hle.trans hkmax⟩
  have len' : s'.mLegal := len
  have budget' : s'.kLegal := ⟨hk', hkmax⟩
  refine ⟨_, _, runText_eq_feed hz buf len budget room, runText_eq_feed hz buf len' budget' room,
    fun k hk => BitVec.eq_of_getLsbD_eq fun j _ => ?rows, fun p hp => ?levels⟩
  case rows =>
    rw [getLsbD_rowK_feed_mInit hz _ len' budget' _ room (hk.trans hle),
      getLsbD_rowK_feed_mInit hz _ len budget _ room hk]
    rfl
  case levels =>
    obtain ⟨d, hlvl, hlvl'⟩ : ∃ d,
        (((s.mInit a.toNat).feed (textBit text) text.length).level p).toNat =
          (if d ≤ s.k.toNat then d else s.m.toNat) ∧
        (((s'.mInit a.toNat).feed (textBit text) text.length).level p).toNat =
          if d ≤ k'.toNat then d else s.m.toNat :=
      ⟨_, toNat_level_feed_mInit hz _ len budget _ room hp,
        toNat_level_feed_mInit hz _ len' budget' _ room hp⟩
    rw [← BitVec.toNat_inj, hlvl, hlvl']
    exact ⟨fun hlow => by split at hlow <;> split <;> omega, fun _ => by split <;> omega⟩

end Sys2Proof.Machine
end

section
/-! PROOFS. The duality of the two conventions: dual states signal the same literals, and a symbol keeps both
the literals and the window, so it keeps states dual. -/

namespace Sys2Proof.Machine

variable {z : Params} {s t : Block z}

/-! ### Complements inside the window -/

/-- Inside the window a complement signals under Shift-OR what the bit signals under Shift-AND. -/
theorem getLsbD_notW_bne_true {len w j : Nat} (v : BitVec len) (hw : j < w) (hlen : j < len) :
    ((notW w v).getLsbD j != true) = (v.getLsbD j != false) := by
  simp [hw, hlen]

/-- Outside the window a complement is the vector itself. -/
theorem getLsbD_notW_of_le {len w j : Nat} (v : BitVec len) (hw : w ≤ j) :
    (notW w v).getLsbD j = v.getLsbD j := by
  rw [getLsbD_notW, decide_eq_false (Nat.not_lt.mpr hw), Bool.and_false, Bool.xor_false]

/-- Two vectors that signal the same inside the window under opposite conventions, and agree outside it,
are complements. -/
theorem eq_notW_of_bne {len w : Nat} {u v : BitVec len}
    (hin : ∀ j, j < w → (u.getLsbD j != true) = (v.getLsbD j != false))
    (hout : ∀ j, w ≤ j → u.getLsbD j = v.getLsbD j) : u = notW w v := by
  refine BitVec.eq_of_getLsbD_eq fun j hj => ?_
  by_cases hw : j < w
  · have h := (hin j hw).trans (getLsbD_notW_bne_true v hw hj).symm
    exact Bool.bne_left_inj.mp h
  · have hw : w ≤ j := Nat.le_of_not_lt hw
    rw [hout j hw, getLsbD_notW_of_le v hw]

/-! ### What dual states share -/

/-- A dual state differs in the convention, the masks and the rows only. -/
theorem shiftDual.frame (h : shiftDual s t) : ∃ so r, t =
    { s with
      aso := true, cfgShiftOr := so
      mask0 := notW s.am.toNat s.mask0, mask1 := notW s.am.toNat s.mask1, row := r } := by
  obtain ⟨-, ht, -⟩ := h
  exact ⟨_, _, ht⟩

theorem shiftDual.aso (h : shiftDual s t) : s.aso = false ∧ t.aso = true := by
  obtain ⟨so, r, rfl⟩ := h.frame
  exact ⟨h.1, rfl⟩

theorem shiftDual.latched (h : shiftDual s t) : t.am = s.am ∧ t.ak = s.ak ∧ t.ains = s.ains := by
  obtain ⟨so, r, rfl⟩ := h.frame
  exact ⟨rfl, rfl, rfl⟩

theorem shiftDual.started (h : shiftDual s t) (started : s.stMv = true) : t.stMv = true := by
  obtain ⟨so, r, rfl⟩ := h.frame
  exact started

theorem shiftDual.pos (h : shiftDual s t) : t.pos = s.pos := by
  obtain ⟨so, r, rfl⟩ := h.frame
  rfl

theorem shiftDual.mask (h : shiftDual s t) (c : Bool) : t.mask c = notW s.am.toNat (s.mask c) := by
  obtain ⟨so, r, rfl⟩ := h.frame
  cases c <;> rfl

theorem shiftDual.rowK (h : shiftDual s t) {k : Nat} (hk : k ≤ s.ak.toNat) :
    t.rowK k = notW s.am.toNat (s.rowK k) := by
  obtain ⟨-, -, hrow⟩ := h
  exact hrow k hk

/-- Dual states signal the same beginnings of the pattern. -/
theorem shiftDual.lit (h : shiftDual s t) {k j : Nat} (hk : k ≤ s.ak.toNat) (hj : j < s.am.toNat)
    (hjmax : j < z.mMax) : t.lit k j = s.lit k j := by
  obtain ⟨hs, ht⟩ := h.aso
  rw [Block.lit, Block.lit, hs, ht, h.rowK hk, getLsbD_notW_bne_true _ hj hjmax]

theorem shiftDual.hit (h : shiftDual s t) (c : Bool) {j : Nat} (hj : j < s.am.toNat)
    (hjmax : j < z.mMax) : t.hit c j = s.hit c j := by
  obtain ⟨hs, ht⟩ := h.aso
  rw [Block.hit, Block.hit, hs, ht, h.mask, getLsbD_notW_bne_true _ hj hjmax]

theorem shiftDual.matcherOk (h : shiftDual s t) (hs : s.matcherOk) : t.matcherOk := by
  obtain ⟨so, r, rfl⟩ := h.frame
  exact hs

theorem shiftDual.windowOk (h : shiftDual s t) (started : s.stMv = true) (hs : s.windowOk) :
    t.windowOk := by
  obtain ⟨ham, hak, -⟩ := h.latched
  intro _ j hj
  rw [ham] at hj
  obtain ⟨hmask0, hmask1, hrow⟩ := hs started j hj
  refine ⟨?mask0, ?mask1, fun k hk => ?rows⟩
  case mask0 =>
    change (t.mask false).getLsbD j = false
    rw [h.mask, getLsbD_notW_of_le _ hj]
    exact hmask0
  case mask1 =>
    change (t.mask true).getLsbD j = false
    rw [h.mask, getLsbD_notW_of_le _ hj]
    exact hmask1
  case rows =>
    rw [hak] at hk
    rw [h.rowK hk, getLsbD_notW_of_le _ hj, hrow k hk]

/-! ### One symbol -/

/-- After a symbol dual states signal the same beginnings of the pattern: one rule holds for both
conventions. -/
theorem shiftDual.lit_mStepBody (h : shiftDual s t) (c : Bool) (hmmax : s.am.toNat ≤ z.mMax)
    (hkmax : s.ak.toNat ≤ z.kMax) (k : Nat) : ∀ j, k ≤ s.ak.toNat → j < s.am.toNat →
      (t.mStepBody c).lit k j = (s.mStepBody c).lit k j := by
  obtain ⟨ham, hak, hains⟩ := h.latched
  have hkmax' : t.ak.toNat ≤ z.kMax := by rwa [hak]
  induction k with
  | zero =>
    intro j hk hj
    have hjmax : j < z.mMax := by omega
    rw [lit_mStepBody_zero c hkmax hj hjmax, lit_mStepBody_zero c hkmax' (by rwa [ham]) hjmax,
      h.lit hk (by omega) (by omega), h.hit c hj hjmax]
  | succ k ih =>
    intro j hk hj
    have hk' : k ≤ s.ak.toNat := Nat.le_of_succ_le hk
    have hjmax : j < z.mMax := by omega
    rw [lit_mStepBody_succ c hkmax hk hj hjmax,
      lit_mStepBody_succ c hkmax' (by rwa [hak]) (by rwa [ham]) hjmax,
      h.lit hk (by omega) (by omega), h.lit hk' hj hjmax, h.lit hk' (by omega) (by omega),
      h.hit c hj hjmax, ih (j - 1) hk' (by omega), hains]

/-- The level is read off the signals of the last pattern bit, so dual states record the same one. -/
theorem shiftDual.lastLvl_mStepBody (h : shiftDual s t) (c : Bool) (hm : 1 ≤ s.am.toNat)
    (hmmax : s.am.toNat ≤ z.mMax) (hkmax : s.ak.toNat ≤ z.kMax) :
    (t.mStepBody c).lastLvl = (s.mStepBody c).lastLvl := by
  obtain ⟨ham, hak, -⟩ := h.latched
  have hlit : ∀ k, k ≤ s.ak.toNat →
      (t.mStepBody c).lit k (t.am.toNat - 1) = (s.mStepBody c).lit k (s.am.toNat - 1) := fun k hk => by
    rw [ham, h.lit_mStepBody c hmmax hkmax k _ hk (Nat.sub_one_lt_of_lt hm)]
  have htop : (t.mStepBody c).lit t.ak.toNat (t.am.toNat - 1) =
      (s.mStepBody c).lit s.ak.toNat (s.am.toNat - 1) := by
    rw [← hlit _ (Nat.le_refl _), hak]
  cases hs : (s.mStepBody c).lit s.ak.toNat (s.am.toNat - 1) with
  | false => rw [lastLvl_of_not_lit hs, lastLvl_of_not_lit (htop.trans hs), ham]
  | true =>
    obtain ⟨hle, hlvl, hleast⟩ := lastLvl_of_lit hs
    exact BitVec.eq_of_toNat_eq (lastLvl_eq_of_least (htop.trans hs) ((hlit _ hle).trans hlvl)
      fun k hk => (hlit k (by omega)).trans (hleast k hk))

/-- One symbol keeps states dual (43_matcher.md R235). -/
theorem shiftDual.mStepBody (h : shiftDual s t) (c : Bool) (started : s.stMv = true)
    (hok : s.matcherOk) (hwindow : s.windowOk) : shiftDual (s.mStepBody c) (t.mStepBody c) := by
  obtain ⟨hm, hmmax, -, hkmax, -⟩ := hok started
  obtain ⟨hsaso, htaso⟩ := h.aso
  refine ⟨hsaso, ?frame, fun k hk => eq_notW_of_bne (fun j hj => ?inside) fun j hj => ?outside⟩
  case frame =>
    have hlvl : (t.updateRows c).curLevel = (s.updateRows c).curLevel :=
      h.lastLvl_mStepBody c hm hmmax hkmax
    rw [mStepBody_frame t, hlvl]
    obtain ⟨so, r, rfl⟩ := h.frame
    rfl
  case inside =>
    have hlit := h.lit_mStepBody c hmmax hkmax k j hk hj
    rw [← hsaso, ← htaso]
    exact hlit
  case outside =>
    obtain ⟨ham, hak, -⟩ := h.latched
    have started' := h.started started
    obtain ⟨-, -, hrow⟩ := windowOk_mStepBody c started hok hwindow started j hj
    obtain ⟨-, -, hrow'⟩ := windowOk_mStepBody c started' (h.matcherOk hok)
      (h.windowOk started hwindow) started' j (ham ▸ hj)
    rw [hrow k hk, hrow' k (hak ▸ hk)]

/-! ### A text -/

/-- Preprocessing the same pattern under the two conventions gives dual states. -/
theorem shiftDual_mInit (b : Nat) (s : Block z) (budget : s.kLegal) :
    shiftDual (({ s with cfgShiftOr := false } : Block z).mInit b)
      (({ s with cfgShiftOr := true } : Block z).mInit b) := by
  refine ⟨rfl, rfl, fun k hk => ?_⟩
  have hkmax : k ≤ z.kMax := Nat.le_trans hk budget.2
  rw [Block.rowK, Block.rowK, Block.mInit_row, Block.mInit_row, rowAt_buildRows, rowAt_buildRows,
    if_pos ⟨hk, hkmax⟩, if_pos ⟨hk, hkmax⟩]
  rfl

/-- Settles O44: the preprocessed patterns are dual, and every symbol of the text keeps the states dual,
the matcher being in range and its window empty throughout. -/
theorem shiftOrIsTheDualOfShiftAnd : Obligations.ShiftOrIsTheDualOfShiftAnd := by
  refine fun z hz => ⟨fun a text s buf len budget room => ?run,
    fun c s t started hok hwindow room h => ?step⟩
  case step =>
    exact ⟨_, _, exec_mstep_of_room c started room,
      exec_mstep_of_room c (h.started started) (by rwa [h.pos]), h.mStepBody c started hok hwindow⟩
  case run =>
    refine ⟨_, _, runText_eq_feed (s := { s with cfgShiftOr := false }) hz buf len budget room,
      runText_eq_feed (s := { s with cfgShiftOr := true }) hz buf len budget room, ?_⟩
    have dual : ∀ n, n ≤ z.bufBits → shiftDual
        ((({ s with cfgShiftOr := false } : Block z).mInit a.toNat).feed (textBit text) n)
        ((({ s with cfgShiftOr := true } : Block z).mInit a.toNat).feed (textBit text) n) := by
      intro n hn
      induction n with
      | zero => exact shiftDual_mInit a.toNat s budget
      | succ n ih =>
        obtain ⟨hok, hwindow⟩ := windowOk_matcherInvariant.feed
          (s := { s with cfgShiftOr := false }) hz a.toNat len budget (textBit text) (by omega : n ≤ _)
        exact (ih (by omega)).mStepBody (textBit text n) (by simp) hok hwindow
    exact dual _ room

end Sys2Proof.Machine
end

section
/-! PROOFS. The exceptions: what a command that reports an error leaves alone, the interrupt output, and that
every step goes on. -/

namespace Sys2Proof.Machine

variable {z : Params} {s t : Block z}

/-! ### Command errors -/

/-- LGENS past its checks records SKIP_EXHAUSTED or no error (41_lfsr.md R165). -/
theorem lgensEffect_errcode (d : BufIx) (sym : Bool) (s : Block z) :
    (lgensEffect d sym s).errcode = errCode .skipExhausted ∨
      (lgensEffect d sym s).errcode = s.errcode := by
  obtain ⟨r, hr, hfound | hexhausted⟩ := lgensEffect_cases d sym s
  · rw [hfound, lfsrRecord_frame, hr, lfsrSkip_frame]; exact .inr rfl
  · rw [hexhausted]; exact .inl rfl

/-- Where an error code comes from: a check that failed before anything was written, the skip of LGENS, or
the state before the command. -/
theorem Executes.errcode_cases {i : Instr} (h : Executes s i t) :
    (∃ e, t = s.cmdError e) ∨ t.errcode = errCode .skipExhausted ∨ t.errcode = s.errcode := by
  cases h with
  | error e => exact .inl ⟨e, rfl⟩
  | nop | lload | lstep | minit | mstep => exact .inr (.inr rfl)
  | lgen => rw [lfsrRecord_frame]; exact .inr (.inr rfl)
  | lgens => exact .inr (lgensEffect_errcode _ _ s)
  | enc => rw [encLoop_frame]; exact .inr (.inr rfl)
  | matchText => rw [matchLoop_frame]; exact .inr (.inr rfl)

/-- Settles O21: a new code other than SKIP_EXHAUSTED's comes from a check that failed. -/
theorem preCheckErrorChangesOnlyStatus : Obligations.PreCheckErrorChangesOnlyStatus := by
  intro z i s t hexec hnew hcode
  obtain ⟨e, rfl⟩ | hskip | hold := (executes_of_exec hexec).errcode_cases
  · rfl
  · exact absurd hskip hcode
  · exact absurd hold hnew

/-! ### The interrupt output -/

/-- Completion sets DONE, so that the output is the enable. -/
theorem irq_finish (s : Block z) : s.finish.irq = s.ie := Bool.and_true s.ie

theorem irq_of_not_done (h : s.stDone = false) : s.irq = false := by
  rw [Block.irq, h, Bool.and_false]

/-- Every reset disables the interrupt. -/
theorem irq_of_registersAtReset (h : s.registersAtReset) : s.irq = false := by
  obtain ⟨-, hie, -⟩ := h
  rw [Block.irq, hie, Bool.false_and]

theorem Executes.ie {i : Instr} (h : Executes s i t) : t.ie = s.ie :=
  calc t.ie = t.configPart.ie := rfl
    _ = s.configPart.ie := by rw [h.configPart]
    _ = s.ie := rfl

/-- The engine's turn on a busy block completes the command, whichever it is, and raises the output while it
is enabled. -/
theorem engineTurn_busy_irq (busy : s.stBusy = true) :
    ∃ u : Block z, engineTurn ⟨z, s⟩ = .next ⟨z, u⟩ ∧ u.irq = s.ie := by
  obtain ⟨u, hu, -, -⟩ := engineTurn_answers s
  have hcomplete : complete ⟨z, s⟩ = .next ⟨z, u⟩ := engineTurn_busy busy ▸ hu
  obtain ⟨i, v, hv, hfinish⟩ := complete_executes hcomplete
  exact ⟨v.finish, hu.trans (congrArg _ hfinish), (irq_finish v).trans hv.ie⟩

/-- A write of SRST = 1 to CTRL is a soft reset, whether the block is busy or not
(70_reset_and_hazards.md R281). -/
theorem portAccess_write_srst (s : Block z) {v : Word} (hsrst : v.getLsbD 1 = true) :
    s.portAccess 0x004 4 (.write v) = { s.softReset with resp := .writeDone } := by
  rw [portAccess_write_allowed v (p := .reg .ctrl) rfl rfl rfl rfl, Block.writePlace, Block.writeReg,
    Block.writeCtrl, if_pos hsrst]

/-- Settles O19: completion sets DONE, an issue and a W1C of DONE clear it, a write to CTRL sets IE, and both
resets clear IE. -/
theorem interruptFollowsEnableAndDone : Obligations.InterruptFollowsEnableAndDone := by
  intro z
  refine ⟨fun s => rfl, fun s busy => engineTurn_busy_irq busy, ?issue, ?clearDone, ?writeEnable,
    ?softReset, fun s => irq_of_registersAtReset (hardReset_registersAtReset s)⟩
  case issue =>
    intro s v idle
    rw [(writeToCmdIssues z s v).1 idle]
    exact irq_of_not_done rfl
  case clearDone =>
    intro s v hw1c
    obtain ⟨-, -, -, -, hstatus, -⟩ := statusAndControlAlwaysAnswer z s v
    rw [hstatus]
    exact irq_of_not_done (by simp [hw1c])
  case writeEnable =>
    intro s v hnosrst
    obtain ⟨-, -, -, hctrl, -⟩ := statusAndControlAlwaysAnswer z s v
    rw [hctrl hnosrst]
    rfl
  case softReset =>
    intro s v hsrst
    rw [portAccess_write_srst s hsrst]
    exact irq_of_registersAtReset (s := s.softReset) (softReset_registersAtReset s)

/-! ### Every step goes on -/

/-- With or without a turn listed, a step answers a next state of the same parameters. -/
theorem step_answers (s : Block z) : ∃ u : Block z, step ⟨z, s⟩ = .next ⟨z, u⟩ := by
  cases hin : s.inbox with
  | nil =>
    obtain ⟨u, hu, -⟩ := engineTurn_answers s
    exact ⟨u, (step_empty hin).trans hu⟩
  | cons turn rest =>
    obtain ⟨u, hu, -⟩ := takeTurn_answers turn { s with inbox := rest }
    exact ⟨u, (step_turn hin).trans hu⟩

/-- Settles O16: every command answers a next state, and so does every other turn. -/
theorem everyStepGoesOn : Obligations.EveryStepGoesOn := by
  rintro ⟨z, s⟩
  obtain ⟨u, hu⟩ := step_answers s
  exact ⟨⟨z, u⟩, hu, rfl⟩

end Sys2Proof.Machine
end

section
/-! PROOFS. The independence of the units: LFSR commands and ENC commute with any change of the matcher,
matcher commands and ENC with any change of the LFSR. -/

namespace Sys2Proof.Machine

variable {z : Params}

/-! ### A change of one unit -/

/-- The block with the matcher's registers, flags and arrays taken from another block. -/
def Block.withMatcherOf (u s : Block z) : Block z :=
  { s with
    am := u.am, ak := u.ak, aso := u.aso, ains := u.ains, mask0 := u.mask0, mask1 := u.mask1
    row := u.row, matchLvls := u.matchLvls, pos := u.pos, stMv := u.stMv, stAny := u.stAny
    lastLvl := u.lastLvl, minLvl := u.minLvl }

/-- The block with the LFSR's registers and flags taken from another block. -/
def Block.withLfsrOf (u s : Block z) : Block z :=
  { s with lfsr := u.lfsr, adeg := u.adeg, apoly := u.apoly, stLv := u.stLv, stOut := u.stOut }

/-- A checked command commutes with a change that leaves its checks, recorded errors and its effect alone. -/
theorem checked_comm {g f : Block z → Block z} {s : Block z} (cs : List (Bool × CmdErr))
    (herr : ∀ e, (g s).cmdError e = g (s.cmdError e)) (heffect : f (g s) = g (f s)) :
    checked cs f (g s) = g (checked cs f s) := by
  cases hc : firstFailing cs with
  | some e => rw [checked_of_some hc, checked_of_some hc, herr]
  | none => rw [checked_of_none hc, checked_of_none hc, heffect]

/-- The ciphertext loop commutes with every change that neither shows in the buffers nor is disturbed by a
write of them. -/
theorem encLoop_comm {g : Block z → Block z} (hread : ∀ s b i, (g s).sbBit b i = s.sbBit b i)
    (hwrite : ∀ s b i v, (g s).setSbBit b i v = g (s.setSbBit b i v)) (d a b c : Nat) :
    ∀ (count i j : Nat) (s : Block z),
      encLoop d a b c i j count (g s) = g (encLoop d a b c i j count s) := by
  intro count
  induction count with
  | zero => intro i j s; rfl
  | succ n ih => intro i j s; simp only [encLoop, hread, hwrite, ih]

/-! ### The LFSR unit does not touch the matcher -/

section WithMatcher

variable (u : Block z)

theorem lfsrStep_withMatcherOf (s : Block z) :
    (u.withMatcherOf s).lfsrStep = u.withMatcherOf s.lfsrStep := rfl

theorem lfsrLoad_withMatcherOf (s : Block z) :
    (u.withMatcherOf s).lfsrLoad = u.withMatcherOf s.lfsrLoad := rfl

theorem lfsrRecord_withMatcherOf (b : Nat) : ∀ (count i : Nat) (s : Block z),
    lfsrRecord b i count (u.withMatcherOf s) = u.withMatcherOf (lfsrRecord b i count s) := by
  intro count
  induction count with
  | zero => intro i s; rfl
  | succ n ih => intro i s; exact ih (i + 1) (s.lfsrStep.setSbBit b i s.lfsrStep.stOut)

theorem lfsrSkip_withMatcherOf (sym : Bool) : ∀ (bound : Nat) (s : Block z),
    lfsrSkip sym bound (u.withMatcherOf s) = u.withMatcherOf (lfsrSkip sym bound s) := by
  intro bound
  induction bound with
  | zero => intro s; rfl
  | succ n ih =>
    intro s
    rw [lfsrSkip, lfsrSkip, lfsrStep_withMatcherOf, ih, apply_ite u.withMatcherOf]
    rfl

theorem lgensEffect_withMatcherOf (d : BufIx) (sym : Bool) (s : Block z) :
    lgensEffect d sym (u.withMatcherOf s) = u.withMatcherOf (lgensEffect d sym s) := by
  have hskip : lfsrSkip sym (2 ^ (u.withMatcherOf s).deg.toNat) (u.withMatcherOf s).lfsrLoad =
      u.withMatcherOf (lfsrSkip sym (2 ^ s.deg.toNat) s.lfsrLoad) :=
    lfsrSkip_withMatcherOf u sym _ s.lfsrLoad
  rw [lgensEffect, lgensEffect, hskip, apply_ite u.withMatcherOf, ← lfsrRecord_withMatcherOf]
  rfl

theorem exec_withMatcherOf {i : Instr} {s t : Block z}
    (hi : i = .lload ∨ i = .lstep ∨ (∃ d, i = .lgen d) ∨ (∃ d sym, i = .lgens d sym) ∨
      ∃ d a b c, i = .enc d a b c) (h : exec i ⟨z, s⟩ = .next ⟨z, t⟩) :
    exec i ⟨z, u.withMatcherOf s⟩ = .next ⟨z, u.withMatcherOf t⟩ := by
  rcases hi with rfl | rfl | ⟨d, rfl⟩ | ⟨d, sym, rfl⟩ | ⟨d, a, b, c, rfl⟩
  · rw [exec_lload, next_inj] at h ⊢; subst h
    exact checked_comm _ (fun _ => rfl) (lfsrLoad_withMatcherOf u s)
  · rw [exec_lstep, next_inj] at h ⊢; subst h
    exact checked_comm _ (fun _ => rfl) (lfsrStep_withMatcherOf u s)
  · rw [exec_lgen, next_inj] at h ⊢; subst h
    exact checked_comm _ (fun _ => rfl) (lfsrRecord_withMatcherOf u _ _ _ s.lfsrLoad)
  · rw [exec_lgens, next_inj] at h ⊢; subst h
    exact checked_comm _ (fun _ => rfl) (lgensEffect_withMatcherOf u d sym s)
  · rw [exec_enc, next_inj] at h ⊢; subst h
    exact checked_comm _ (fun _ => rfl)
      (encLoop_comm (g := u.withMatcherOf) (fun _ _ _ => rfl) (fun _ _ _ _ => rfl) _ _ _ _ _ _ _ s)

end WithMatcher

/-! ### The matcher unit does not touch the LFSR -/

section WithLfsr

variable (u : Block z)

/-- Preprocessing reads the configuration and the buffers. -/
theorem mInit_withLfsrOf (b : Nat) (s : Block z) :
    (u.withLfsrOf s).mInit b = u.withLfsrOf (s.mInit b) := rfl

/-- One symbol reads the matcher only. -/
theorem mStepBody_withLfsrOf (c : Bool) (s : Block z) :
    (u.withLfsrOf s).mStepBody c = u.withLfsrOf (s.mStepBody c) := by
  have lvl : ((u.withLfsrOf s).updateRows c).curLevel = (s.updateRows c).curLevel :=
    curLevel_eq_of_matcherPart rfl
  rw [mStepBody_frame, mStepBody_frame s, lvl]; rfl

theorem matchLoop_withLfsrOf (a : Nat) : ∀ (count p : Nat) (s : Block z),
    matchLoop a p count (u.withLfsrOf s) = u.withLfsrOf (matchLoop a p count s) := by
  intro count
  induction count with
  | zero => intro p s; rfl
  | succ n ih =>
    intro p s
    rw [matchLoop, matchLoop, mStepBody_withLfsrOf, ih]
    rfl

theorem exec_withLfsrOf {i : Instr} {s t : Block z}
    (hi : (∃ a, i = .minit a) ∨ (∃ c, i = .mstep c) ∨ (∃ a b, i = .matchText a b) ∨
      ∃ d a b c, i = .enc d a b c) (h : exec i ⟨z, s⟩ = .next ⟨z, t⟩) :
    exec i ⟨z, u.withLfsrOf s⟩ = .next ⟨z, u.withLfsrOf t⟩ := by
  rcases hi with ⟨a, rfl⟩ | ⟨c, rfl⟩ | ⟨a, b, rfl⟩ | ⟨d, a, b, c, rfl⟩
  · rw [exec_minit, next_inj] at h ⊢; subst h
    exact checked_comm _ (fun _ => rfl) (mInit_withLfsrOf u a.toNat s)
  · rw [exec_mstep, next_inj] at h ⊢; subst h
    exact checked_comm _ (fun _ => rfl) (mStepBody_withLfsrOf u c s)
  · rw [exec_match, next_inj] at h ⊢; subst h
    exact checked_comm _ (fun _ => rfl) (matchLoop_withLfsrOf u _ _ _ (s.mInit b.toNat))
  · rw [exec_enc, next_inj] at h ⊢; subst h
    exact checked_comm _ (fun _ => rfl)
      (encLoop_comm (g := u.withLfsrOf) (fun _ _ _ => rfl) (fun _ _ _ _ => rfl) _ _ _ _ _ _ _ s)

end WithLfsr

/-- Settles O51: the other contents are those of a block that holds them, and each command named commutes
with taking them over. -/
theorem unitsAreIndependent : Obligations.UnitsAreIndependent := by
  intro z i s t h
  refine ⟨fun hi am ak pos lastLvl minLvl aso ains mv any m0 m1 row lvls => ?_,
    fun hi lfsr apoly adeg lv out => ?_⟩
  · exact exec_withMatcherOf
      { s with
        am := am, ak := ak, aso := aso, ains := ains, mask0 := m0, mask1 := m1, row := row
        matchLvls := lvls, pos := pos, stMv := mv, stAny := any, lastLvl := lastLvl
        minLvl := minLvl } hi h
  · exact exec_withLfsrOf
      { s with lfsr := lfsr, adeg := adeg, apoly := apoly, stLv := lv, stOut := out } hi h

end Sys2Proof.Machine
end

section
/-! PROOFS. The soft reset: the registers it resets, the arrays it keeps, and the write set of the command
it abandons. -/

namespace Sys2Proof.Machine

variable {z : Params} {s : Block z}

/-! ### The registers -/

/-- A write of SRST = 1 resets the registers, lowers IRQ and is answered, whether the block is busy or not. -/
theorem portAccess_srst_registers (s : Block z) {v : Word} (hsrst : v.getLsbD 1 = true) :
    (s.portAccess 0x004 4 (.write v)).registersAtReset ∧
      (s.portAccess 0x004 4 (.write v)).irq = false ∧
      (s.portAccess 0x004 4 (.write v)).resp = .writeDone := by
  have hreset : (s.portAccess 0x004 4 (.write v)).registersAtReset := by
    rw [portAccess_write_srst s hsrst]; exact softReset_registersAtReset s
  exact ⟨hreset, irq_of_registersAtReset hreset, by rw [portAccess_write_srst s hsrst]⟩

/-- Settles O59: on an idle block only the registers are reset. -/
theorem softResetKeepsTheArrays : Obligations.SoftResetKeepsTheArrays := by
  intro z s v idle hsrst
  obtain ⟨hreset, hirq, hresp⟩ := portAccess_srst_registers s hsrst
  refine ⟨_, rfl, hreset, hresp, ?_⟩
  rw [portAccess_write_srst s hsrst, softReset_idle idle] at hirq ⊢
  exact ⟨rfl, rfl, rfl, rfl, rfl, hirq⟩

/-! ### The write set -/

/-- OPC of the latched word, as a number. -/
def Block.latchedOpc (s : Block z) : Nat := (fieldOpc s.cmdLatch).toNat

/-- D of the latched word, as a number. -/
def Block.latchedD (s : Block z) : Nat := (fieldBuf s.cmdLatch .d).toNat

/-- Every write set there is, each with its opcodes (70_reset_and_hazards.md R282). -/
theorem writeSet_cases (s : Block z) :
    s.writeSet = { } ∨
    ((s.latchedOpc = 0x12 ∨ s.latchedOpc = 0x13) ∧
      s.writeSet = { buf := some s.latchedD, bufLen := s.glen.toNat }) ∨
    (s.latchedOpc = 0x20 ∧ s.writeSet = { buf := some s.latchedD, bufLen := s.m.toNat }) ∨
    (s.latchedOpc = 0x30 ∧ s.writeSet = { masks := true, rows := s.k.toNat + 1 }) ∨
    (s.latchedOpc = 0x31 ∧
      s.writeSet = { rows := s.ak.toNat + 1, lvlFrom := s.pos.toNat, lvls := 1 }) ∨
    (s.latchedOpc = 0x32 ∧
      s.writeSet = { masks := true, rows := s.k.toNat + 1, lvls := s.n.toNat }) := by
  have hrow : ∀ {op}, opcodeMap.lookup (fieldOpc s.cmdLatch) = some op →
      (s.latchedOpc, op) ∈ opcodeMap.map (Prod.map BitVec.toNat id) :=
    fun h => List.mem_map_of_mem (mem_opcodeMap_of_lookup h)
  rw [Block.writeSet]
  split
  next h => exact .inr (.inl ⟨.inl (by simpa [opcodeMap] using hrow h), rfl⟩)
  next h => exact .inr (.inl ⟨.inr (by simpa [opcodeMap] using hrow h), rfl⟩)
  next h => exact .inr (.inr (.inl ⟨by simpa [opcodeMap] using hrow h, rfl⟩))
  next h => exact .inr (.inr (.inr (.inl ⟨by simpa [opcodeMap] using hrow h, rfl⟩)))
  next h => exact .inr (.inr (.inr (.inr (.inl ⟨by simpa [opcodeMap] using hrow h, rfl⟩))))
  next h => exact .inr (.inr (.inr (.inr (.inr ⟨by simpa [opcodeMap] using hrow h, rfl⟩))))
  all_goals exact .inl rfl

/-- A buffer bit of the write set is one that LGEN, LGENS or ENC writes. -/
theorem writeSet_buf {b j : Nat} (hbuf : s.writeSet.buf = some b) (hlen : j < s.writeSet.bufLen) :
    b = s.latchedD ∧ (((s.latchedOpc = 0x12 ∨ s.latchedOpc = 0x13) ∧ j < s.glen.toNat) ∨
      (s.latchedOpc = 0x20 ∧ j < s.m.toNat)) := by
  obtain hw | ⟨lgen, hw⟩ | ⟨enc, hw⟩ | ⟨-, hw⟩ | ⟨-, hw⟩ | ⟨-, hw⟩ := writeSet_cases s <;>
    rw [hw] at hbuf hlen
  case inr.inl => exact ⟨(Option.some.inj hbuf).symm, .inl ⟨lgen, hlen⟩⟩
  case inr.inr.inl => exact ⟨(Option.some.inj hbuf).symm, .inr ⟨enc, hlen⟩⟩
  all_goals exact absurd hlen (Nat.not_lt_zero j)

/-- The masks are in the write sets of MINIT and MATCH. -/
theorem writeSet_masks (hmasks : s.writeSet.masks = true) :
    s.latchedOpc = 0x30 ∨ s.latchedOpc = 0x32 := by
  obtain hw | ⟨-, hw⟩ | ⟨-, hw⟩ | ⟨minit, hw⟩ | ⟨-, hw⟩ | ⟨matchText, hw⟩ := writeSet_cases s <;>
    rw [hw] at hmasks
  case inr.inr.inr.inl => exact .inl minit
  case inr.inr.inr.inr.inr => exact .inr matchText
  all_goals exact absurd hmasks Bool.false_ne_true

/-- A row of the write set is one that MINIT or MATCH builds or MSTEP updates. -/
theorem writeSet_rows {k : Nat} (hk : k < s.writeSet.rows) :
    ((s.latchedOpc = 0x30 ∨ s.latchedOpc = 0x32) ∧ k ≤ s.k.toNat) ∨
      (s.latchedOpc = 0x31 ∧ k ≤ s.ak.toNat) := by
  obtain hw | ⟨-, hw⟩ | ⟨-, hw⟩ | ⟨minit, hw⟩ | ⟨mstep, hw⟩ | ⟨matchText, hw⟩ := writeSet_cases s <;>
    rw [hw] at hk
  case inr.inr.inr.inl => exact .inl ⟨.inl minit, Nat.le_of_lt_succ hk⟩
  case inr.inr.inr.inr.inl => exact .inr ⟨mstep, Nat.le_of_lt_succ hk⟩
  case inr.inr.inr.inr.inr => exact .inl ⟨.inr matchText, Nat.le_of_lt_succ hk⟩
  all_goals exact absurd hk (Nat.not_lt_zero k)

/-- An entry of MATCHES in the write set is one that MSTEP or MATCH records. -/
theorem writeSet_lvls {p : Nat} (hfrom : s.writeSet.lvlFrom ≤ p)
    (hp : p < s.writeSet.lvlFrom + s.writeSet.lvls) :
    (s.latchedOpc = 0x31 ∧ p = s.pos.toNat) ∨ (s.latchedOpc = 0x32 ∧ p < s.n.toNat) := by
  obtain hw | ⟨-, hw⟩ | ⟨-, hw⟩ | ⟨-, hw⟩ | ⟨mstep, hw⟩ | ⟨matchText, hw⟩ := writeSet_cases s <;>
    rw [hw] at hfrom hp
  case inr.inr.inr.inr.inl =>
    exact .inl ⟨mstep, Nat.le_antisymm (Nat.le_of_lt_succ hp) hfrom⟩
  case inr.inr.inr.inr.inr => exact .inr ⟨matchText, by simpa using hp⟩
  all_goals exact absurd hp (Nat.not_lt_zero p)

/-- The masks after the write set of an abandoned command became unspecified. -/
theorem masks_scramble {ws : WriteSet} (h : ws.masks = false) :
    (s.scramble ws).mask0 = s.mask0 ∧ (s.scramble ws).mask1 = s.mask1 := by
  simp [Block.scramble, h]

/-- Settles O60: what the scrambled write set holds of each array lies within what the statement names. -/
theorem abandonedCommandTouchesOnlyItsWriteSet :
    Obligations.AbandonedCommandTouchesOnlyItsWriteSet := by
  rintro z s v _ _ busy hsrst rfl rfl
  obtain ⟨hreset, hirq, hresp⟩ := portAccess_srst_registers s hsrst
  refine ⟨_, rfl, hreset, hirq, hresp, ?_⟩
  rw [portAccess_write_srst s hsrst, softReset_busy busy]
  refine ⟨fun b j hout => ?buf, fun hout => ?masks, fun k hout => ?rows, fun p hout => ?lvls⟩
  case buf =>
    exact (sbBit_scramble s _ b j).trans (if_neg fun ⟨hbuf, hlen, _⟩ => hout (writeSet_buf hbuf hlen))
  case masks =>
    exact masks_scramble (Bool.eq_false_iff.mpr fun hmasks => hout (writeSet_masks hmasks))
  case rows =>
    exact (rowK_scramble s _ k).trans (if_neg fun ⟨hk, _⟩ => hout (writeSet_rows hk))
  case lvls =>
    exact (level_scramble s _ p).trans (if_neg fun ⟨hfrom, hp, _⟩ => hout (writeSet_lvls hfrom hp))

end Sys2Proof.Machine
end
